-- ==== Sys2Proof/Word.lean ====
section
/-! DEFINITION. The word and byte types of SHA512CE (spec 00_scope.md R10, R17): unsigned 64-bit words and bytes, nothing
signed. -/

namespace Sys2Proof

/-- A 64-bit unsigned word, arithmetic modulo 2^64 (R8, R10, R122). -/
abbrev Word := BitVec 64

/-- One byte of MSG, DBUF or a byte sequence (R12). -/
abbrev Byte := BitVec 8

end Sys2Proof
end

