-- ==== Sys2Proof/Config.lean ====
section
/-! DEFINITION. What an implementation of SHA512CE fixes (the OPEN parameter MSG_BYTES of R9) and the free values the spec
leaves open (R48, R67). Every `opaque` below has no body, so nothing can be proved of its value. -/

namespace Sys2Proof.Config

/-- The number of 128-byte blocks MSG holds, less one: any of 0 .. 2^41 - 1. A free parameter (R9, D12; assumption 1). -/
opaque extraBlocks : BitVec 41

/-- MSG_BYTES (R9, D12): any multiple of 128 with 128 <= MSG_BYTES <= 2^48, and no more than that is known of it
(assumption 1). -/
def msgBytes : Nat := 128 * (extraBlocks.toNat + 1)

/-- The byte that MSG offset `offset` holds after reset number `epoch` until something writes it: a free draw, made once at
that reset (R48, R230, D20; assumption 2). -/
opaque msgDraw : (epoch offset : Nat) → Byte

/-- The word that draw number `draw` gives to a host read made while BUSY = 1: a fresh free draw per read (R67, R242, D18;
assumption 3). -/
opaque busyDraw : (draw : Nat) → Word

end Sys2Proof.Config
end

