-- ==== Sys2Proof/Syntax.lean ====
section
/-! DEFINITION. The commands of SHA512CE: one constructor per row of the opcode map (spec 30_encoding.md R84), with the
operand ARG (R82) of the three commands that have one. -/

namespace Sys2Proof

/-- The eleven commands (R84). An operand is the number the assembler line gives (R89); the encoding admits 0 .. 2^16 - 1
(R82, `Instr.wellFormed`). -/
inductive Instr where
  /-- INIT v (R161): v is the digest bit length. -/
  | init (v : Nat)
  /-- PAD (R162). -/
  | pad
  /-- LOADBLK (R163). -/
  | loadblk
  /-- SCHED (R164). -/
  | sched
  /-- CSTART (R165). -/
  | cstart
  /-- ROUND n (R166): n is the number of rounds to run. -/
  | round (n : Nat)
  /-- CFINAL (R167). -/
  | cfinal
  /-- COMPRESS (R168). -/
  | compress
  /-- BLOCK (R169). -/
  | block
  /-- FINISH (R170). -/
  | finish
  /-- DIGEST v (R171): v is the digest bit length. -/
  | digest (v : Nat)
deriving DecidableEq, Repr

end Sys2Proof
end

