-- ==== Sys2Proof/Machine/State.lean ====
section
/-! DEFINITION. The state of SHA512CE (spec 10_state.md): every register, the status bits, the pending command, the digest
buffer and the message buffer; the host's accesses as inputs; the reasons a step can stop; the state after reset (R48). The ROMs
K and IV (R26, R27) are constants and stand in Machine/Rom.lean. -/

namespace Sys2Proof.Machine

/-- The working registers WR[0..7], named a .. h (R23). -/
structure WorkRegs where
  a : Word
  b : Word
  c : Word
  d : Word
  e : Word
  f : Word
  g : Word
  h : Word
deriving DecidableEq, Repr

/-- The fields of STATUS (R39). The reserved bits [7:5] and [63:12] read 0 and are not stored; `Status.word` gives the register
as the host reads it. -/
structure Status where
  /-- bit [0]: an accepted command has not yet completed (R40). -/
  busy : Bool
  /-- bit [1]: DBUF holds a valid digest (R41). -/
  done : Bool
  /-- bit [2]: a compression has been started by CSTART and not yet ended (R42). -/
  cact : Bool
  /-- bit [3]: a CMD write was dropped because BUSY = 1, sticky (R43). -/
  cmdovr : Bool
  /-- bit [4]: another host write was dropped because BUSY = 1, sticky (R43). -/
  wrovr : Bool
  /-- bits [11:8]: the code of the first error, 0 when none is latched (R44). -/
  errcode : BitVec 4
deriving DecidableEq, Repr

/-- The message buffer MSG (R47, R53): the bytes written since the last reset, as (offset into MSG, byte) pairs with rising
offsets (`Mem.wf`). An offset that is not listed holds no written value; what the machine reads there is the free draw of R48
(`msgByte`; assumption 2). -/
abbrev Mem := List Host.Cell

/-- The one canonical form of a memory: offsets strictly rising. No pair can equal what an unlisted offset holds (no written
value), so equal contents are equal lists. -/
abbrev Mem.wf (m : Mem) : Prop := m.Pairwise (fun x y => x.1 < y.1)

/-- The width of a host access. Only 8 and 64 bits are legal anywhere (R57, R64); the others exist so that a wrong-width access
can be written down and gets its bus error (R52; 93_implementation_defined.md). -/
inductive Width where
  | bits8
  | bits16
  | bits32
  | bits64
deriving DecidableEq, Repr

/-- One host access (R14, R57): a width, an engine byte offset and, for a write, the value. An 8-bit write keeps the low 8 bits of
its value (R53). -/
inductive Access where
  | read (width : Width) (offset : Word)
  | write (width : Width) (offset : Word) (value : Word)
deriving DecidableEq, Repr

/-- The response to a host access (R57, R58): the value read, and whether the response is BUSERR. -/
inductive Reply where
  | read (value : Word) (busErr : Bool)
  | written (busErr : Bool)
deriving DecidableEq, Repr

/-- Whose move comes next. A list of these is the outside world's part of a run: the host's accesses (R20), resets (R230), and
when the engine gets to complete its command (CMD_LATENCY, R248). -/
inductive Turn where
  /-- The engine performs the pending command as one atomic step (R248); with BUSY = 0 it is idle (R220). -/
  | engine
  /-- The engine starts the pending command but does not complete it: only R160's clearing of CMDOVR and WROVR is done early
  (assumption 5). -/
  | start
  /-- The host makes one access (R65). -/
  | access (a : Access)
  /-- A reset event (R230). -/
  | reset
deriving DecidableEq, Repr

/-- The whole state. The fields from `epoch` on are the MODEL's own. -/
structure State where
  /-- H[0..7], the hash state (R22). -/
  h : Vector Word 8
  /-- WR[0..7], the working registers (R23). -/
  wr : WorkRegs
  /-- BLK[0..15], the block buffer (R24). -/
  blk : Vector Word 16
  /-- W[0..79], the message schedule (R25). -/
  w : Vector Word 80
  /-- VARIANT (R31). -/
  variant : Word
  /-- OUTLEN (R32). -/
  outlen : Word
  /-- MLEN (R33). -/
  mlen : Word
  /-- PLEN (R34). -/
  plen : Word
  /-- NBLK (R34). -/
  nblk : Word
  /-- BIDX (R35). -/
  bidx : Word
  /-- TCNT (R30). -/
  tcnt : Word
  /-- CAPACITY, a constant register holding MSG_BYTES (R36). -/
  capacity : Word
  /-- STATUS (R38, R39). -/
  status : Status
  /-- DBUF, the digest buffer (R45). -/
  dbuf : Vector Byte 64
  /-- PEND, the pending command word (R46). -/
  pend : Word
  /-- MSG, the message buffer (R47). -/
  msg : Mem
  /-- MODEL: how many reset events there have been; it selects the free draws of MSG (R48; assumption 2). -/
  epoch : Nat
  /-- MODEL: how many reads have been made while BUSY = 1; it selects their free draws (R67; assumption 3). -/
  draws : Nat
  /-- MODEL: the pending command has been started by `Turn.start` (assumption 5). -/
  begun : Bool
  /-- MODEL: the moves to come; when none is left the engine moves (R248; assumption 4). -/
  turns : List Turn
  /-- MODEL: the response to the host's last access (R57, R58). -/
  reply : Option Reply
deriving DecidableEq, Repr

/-- What stops the machine. -/
inductive Fault where
  /-- Raised by LOADBLK and BLOCK where block BIDX reaches past MSG[MSG_BYTES), bytes the spec says do not exist (R53, R55). SAFE:
  the invariant of R49 excludes it, so no state reachable from reset raises it (`State.Inv`; assumption 6). -/
  | blockOutsideMsg
deriving DecidableEq, Repr

/-- Why an instruction has no meaning. -/
inductive Refusal where
  /-- An arm of `exec` that is not modelled yet. SAFE. No arm answers it: all eleven commands have their meaning. -/
  | notModelled (mnemonic : String)
deriving DecidableEq, Repr

/-- The machine right after reset (R48): every register 0, CAPACITY = MSG_BYTES, MSG with nothing written. -/
def State.reset : State where
  h := #v[0, 0, 0, 0, 0, 0, 0, 0]
  wr := { a := 0, b := 0, c := 0, d := 0, e := 0, f := 0, g := 0, h := 0 }
  blk := Vector.replicate 16 0
  w := Vector.replicate 80 0
  variant := 0
  outlen := 0
  mlen := 0
  plen := 0
  nblk := 0
  bidx := 0
  tcnt := 0
  capacity := BitVec.ofNat 64 Config.msgBytes
  status := { busy := false, done := false, cact := false, cmdovr := false, wrovr := false, errcode := 0 }
  dbuf := Vector.replicate 64 0
  pend := 0
  msg := []
  epoch := 0
  draws := 0
  begun := false
  turns := []
  reply := none

end Sys2Proof.Machine
end

