-- ==== Sys2Proof/Machine/Functions.lean ====
section
/-! DEFINITION. The MessageScheduler and the CompressionEngine as pure functions (spec 41_scheduler_compression.md R120 to
R134): word operations, the six logical functions, the schedule, one round, the compression of one block. -/

namespace Sys2Proof.Machine

/-- shr(n, x), for 0 < n < 64 (R120). -/
def shr (n : Nat) (x : Word) : Word := x >>> n

/-- rotr(n, x), for 0 < n < 64 (R121). -/
def rotr (n : Nat) (x : Word) : Word := shr n x ||| (x <<< (64 - n))

/-- σ0 (R123). -/
def sigma0 (x : Word) : Word := rotr 1 x ^^^ rotr 8 x ^^^ shr 7 x

/-- σ1 (R124). -/
def sigma1 (x : Word) : Word := rotr 19 x ^^^ rotr 61 x ^^^ shr 6 x

/-- Σ0 (R125). -/
def bigSigma0 (x : Word) : Word := rotr 28 x ^^^ rotr 34 x ^^^ rotr 39 x

/-- Σ1 (R126). -/
def bigSigma1 (x : Word) : Word := rotr 14 x ^^^ rotr 18 x ^^^ rotr 41 x

/-- Ch (R127). -/
def ch (x y z : Word) : Word := (x &&& y) ^^^ (~~~x &&& z)

/-- Maj (R128). -/
def maj (x y z : Word) : Word := (x &&& y) ^^^ (x &&& z) ^^^ (y &&& z)

/-- Word t of a register array; the callers ask only for words the array has. -/
def wordAt {n : Nat} (v : Vector Word n) (t : Nat) : Word := v.toList.getD t 0

/-- W[t] from the words before it, the newest first: `recent[i]` is W[t-1-i] (R129). -/
def nextScheduleWord (recent : List Word) : Word :=
  sigma1 (recent.getD 1 0) + recent.getD 6 0 + sigma0 (recent.getD 14 0) + recent.getD 15 0

/-- `n` more schedule words in ascending t, on a list that holds the newest first (R129). -/
def extendSchedule : Nat → List Word → List Word
  | 0, recent => recent
  | n + 1, recent => extendSchedule n (nextScheduleWord recent :: recent)

theorem extendSchedule_length (n : Nat) (recent : List Word) :
    (extendSchedule n recent).length = recent.length + n := by
  induction n generalizing recent with
  | zero => rfl
  | succ n ih => rw [extendSchedule, ih, List.length_cons]; omega

/-- Schedule(B), the 80-word message schedule of a block (R129). It is irreducible so that the elaborator does not write out 80
words when it compares two states; its equation and the kernel's evaluation are as for any other. -/
@[irreducible] def schedule (b : Vector Word 16) : Vector Word 80 :=
  ⟨(extendSchedule 64 b.toList.reverse).reverse.toArray, by
    rw [List.size_toArray, List.length_reverse, extendSchedule_length, List.length_reverse, Vector.length_toList]⟩

/-- Round(t, (a..h), W[t], K[t]): one round on the values before it (R130). -/
def shaRound (r : WorkRegs) (wt kt : Word) : WorkRegs :=
  let t1 := r.h + bigSigma1 r.e + ch r.e r.f r.g + kt + wt
  let t2 := bigSigma0 r.a + maj r.a r.b r.c
  { a := t1 + t2, b := r.a, c := r.b, d := r.c, e := r.d + t1, f := r.e, g := r.f, h := r.g }

/-- Rounds t, t+1, ..., t+n-1 in ascending order, each on the previous one's result (R130, R133, R243). -/
def runRounds (w : Vector Word 80) : (n t : Nat) → WorkRegs → WorkRegs
  | 0, _, r => r
  | n + 1, t, r => runRounds w n (t + 1) (shaRound r (wordAt w t) (roundConstant t))

/-- Compression start: (a..h) <- (H[0], .., H[7]) (R131). -/
def workOfHash (h : Vector Word 8) : WorkRegs :=
  { a := h[0], b := h[1], c := h[2], d := h[3], e := h[4], f := h[5], g := h[6], h := h[7] }

/-- WR[0..7] as an array: WR[0] = a, .., WR[7] = h (R23). -/
def WorkRegs.toVector (r : WorkRegs) : Vector Word 8 := #v[r.a, r.b, r.c, r.d, r.e, r.f, r.g, r.h]

/-- The feed-forward: H[i] + WR[i] modulo 2^64 (R132). -/
def feedForward (h : Vector Word 8) (r : WorkRegs) : Vector Word 8 :=
  #v[h[0] + r.a, h[1] + r.b, h[2] + r.c, h[3] + r.d, h[4] + r.e, h[5] + r.f, h[6] + r.g, h[7] + r.h]

/-- The working registers after round 79 of a compression that starts from `h` (R133).
Irreducible for the reason `schedule` is. -/
@[irreducible] def compressedWork (h : Vector Word 8) (w : Vector Word 80) : WorkRegs := runRounds w 80 0 (workOfHash h)

/-- Compress(H, W): the next hash state (R133). -/
def compressHash (h : Vector Word 8) (w : Vector Word 80) : Vector Word 8 := feedForward h (compressedWork h w)

end Sys2Proof.Machine
end

