-- ==== Sys2Proof/Machine/Operands.lean ====
section
/-! DEFINITION. The operands of the commands (spec 30_encoding.md R82, R83) and the host's address map (spec 10_state.md R28,
20_memory.md R50 to R57). -/

namespace Sys2Proof.Machine

/-- The variant a selector picks: exactly 224, 256, 384 and 512 are legal (R83, R141). -/
def variantOf (v : Nat) : Option Variant :=
  if v = 512 then some .v512
  else if v = 384 then some .v384
  else if v = 256 then some .v256
  else if v = 224 then some .v224
  else none

/-- The digest bit length of a variant (R140). -/
def variantBits : Variant → Nat
  | .v512 => 512
  | .v384 => 384
  | .v256 => 256
  | .v224 => 224

/-- The output byte length of a variant: its bit length / 8 (R142). -/
def variantBytes (x : Variant) : Nat := variantBits x / 8

/-- The registers of the register file (R28). -/
inductive Reg where
  | cmd
  | status
  | variant
  | outlen
  | mlen
  | plen
  | nblk
  | bidx
  | tcnt
  | capacity
  | h (i : Fin 8)
  | wr (i : Fin 8)
  | blk (i : Fin 16)
  | w (t : Fin 80)
deriving DecidableEq, Repr

/-- The byte offset of a register (R28). -/
def regOffset : Reg → Nat
  | .cmd => 0x000
  | .status => 0x008
  | .variant => 0x010
  | .outlen => 0x018
  | .mlen => 0x020
  | .plen => 0x028
  | .nblk => 0x030
  | .bidx => 0x038
  | .tcnt => 0x040
  | .capacity => 0x048
  | .h i => 0x080 + 8 * i.val
  | .wr i => 0x0C0 + 8 * i.val
  | .blk i => 0x100 + 8 * i.val
  | .w t => 0x200 + 8 * t.val

/-- The register at a byte offset; none where R28 lists none or the offset is not a multiple of 8 (R28, R52). -/
def regAt (n : Nat) : Option Reg :=
  if n % 8 ≠ 0 then none
  else if n = 0x000 then some .cmd
  else if n = 0x008 then some .status
  else if n = 0x010 then some .variant
  else if n = 0x018 then some .outlen
  else if n = 0x020 then some .mlen
  else if n = 0x028 then some .plen
  else if n = 0x030 then some .nblk
  else if n = 0x038 then some .bidx
  else if n = 0x040 then some .tcnt
  else if n = 0x048 then some .capacity
  else if _ : 0x080 ≤ n ∧ n < 0x0C0 then some (.h ⟨(n - 0x080) / 8, by omega⟩)
  else if _ : 0x0C0 ≤ n ∧ n < 0x100 then some (.wr ⟨(n - 0x0C0) / 8, by omega⟩)
  else if _ : 0x100 ≤ n ∧ n < 0x180 then some (.blk ⟨(n - 0x100) / 8, by omega⟩)
  else if _ : 0x200 ≤ n ∧ n < 0x480 then some (.w ⟨(n - 0x200) / 8, by omega⟩)
  else none

/-- MSG_BASE, the offset of MSG in the address space (R9, R51). -/
def msgBase : Nat := 0x10000

/-- The offset of the DOUT window (R51). -/
def doutBase : Nat := 0x1000

/-- A location of the address space (R50): a register, a byte of the DOUT window, a byte of MSG. -/
inductive Location where
  | reg (r : Reg)
  | dout (j : Fin 64)
  | msg (j : Nat)
deriving DecidableEq, Repr

/-- The location at an offset, in an engine whose MSG has `capacity` bytes; none where the map has nothing (R51). -/
def locate (capacity : Nat) (offset : Word) : Option Location :=
  let n := offset.toNat
  if n < doutBase then (regAt n).map .reg
  else if _ : doutBase ≤ n ∧ n < doutBase + 64 then some (.dout ⟨n - doutBase, by omega⟩)
  else if msgBase ≤ n ∧ n < msgBase + capacity then some (.msg (n - msgBase))
  else none

/-- The location a read reaches; none where the form is illegal and gets BUSERR (R57). -/
def readTarget (width : Width) (capacity : Nat) (offset : Word) : Option Location :=
  match width, locate capacity offset with
  | .bits64, some (.reg r) => some (.reg r)
  | .bits8, some (.dout j) => some (.dout j)
  | .bits8, some (.msg j) => some (.msg j)
  | _, _ => none

/-- The location a write reaches; none where the form is illegal and gets BUSERR (R57). The DOUT window takes no write (R54). -/
def writeTarget (width : Width) (capacity : Nat) (offset : Word) : Option Location :=
  match width, locate capacity offset with
  | .bits64, some (.reg r) => some (.reg r)
  | .bits8, some (.msg j) => some (.msg j)
  | _, _ => none

end Sys2Proof.Machine
end

