-- ==== Sys2Proof/WellFormed.lean ====
section
/-! DEFINITION. Which commands have an encoding: the operand must fit the 16-bit field ARG (spec 30_encoding.md R82, R89). -/

namespace Sys2Proof

/-- An operand fits ARG: "The assembler refuses an operand that does not fit 16 bits" (R89). -/
def operandFits (arg : Nat) : Bool := decide (arg < 2 ^ 16)

/-- A command has an encoding. A variant other than 224, 256, 384 and 512, or a round count that is 0 or too large, is well
formed: the command itself checks it (R82). -/
def Instr.wellFormed : Instr → Bool
  | .init v => operandFits v
  | .pad => true
  | .loadblk => true
  | .sched => true
  | .cstart => true
  | .round n => operandFits n
  | .cfinal => true
  | .compress => true
  | .block => true
  | .finish => true
  | .digest v => operandFits v

end Sys2Proof
end

