-- ==== Sys2Proof/Decode.lean ====
section
/-! DEFINITION. The command word CMD64 (spec 30_encoding.md R80 to R88): its fields, the decoder, total on every 64-bit word
and rejecting by name, the legality predicate, and the encoder. -/

namespace Sys2Proof

/-- OPC, bits [7:0] (R80). -/
def opcOf (w : Word) : Byte := w.extractLsb' 0 8

/-- RSV1, bits [15:8] (R80). -/
def rsv1Of (w : Word) : Byte := w.extractLsb' 8 8

/-- ARG, bits [31:16] (R80). -/
def argOf (w : Word) : BitVec 16 := w.extractLsb' 16 16

/-- RSV2, bits [63:32] (R80). -/
def rsv2Of (w : Word) : BitVec 32 := w.extractLsb' 32 32

/-- Why a command word is not legal (R85, R86). Every one of them makes the engine raise IllegalCommandError (R176). -/
inductive DecodeError where
  /-- A bit of RSV2 is set (R86). -/
  | rsv2NotZero
  /-- A bit of RSV1 is set (R86). -/
  | rsv1NotZero
  /-- OPC is 0x00 or 0x0C .. 0xFF (R84, R86). -/
  | reservedOpcode (opc : Byte)
  /-- ARG is not 0 on an opcode without an operand (R82, R86). -/
  | argNotZero (opc : Byte)
deriving DecidableEq, Repr

/-- A command without an operand is legal only with ARG = 0 (R85). -/
def decodeNoOperand (w : Word) (i : Instr) : Except DecodeError Instr :=
  if argOf w = 0 then .ok i else .error (.argNotZero (opcOf w))

/-- The opcode map (R84, R87), for a word whose reserved fields are 0. ARG is read as an unsigned number (R82). -/
def decodeOpcode (w : Word) : Except DecodeError Instr :=
  match (opcOf w).toNat with
  | 0x01 => .ok (.init (argOf w).toNat)
  | 0x02 => decodeNoOperand w .pad
  | 0x03 => decodeNoOperand w .loadblk
  | 0x04 => decodeNoOperand w .sched
  | 0x05 => decodeNoOperand w .cstart
  | 0x06 => .ok (.round (argOf w).toNat)
  | 0x07 => decodeNoOperand w .cfinal
  | 0x08 => decodeNoOperand w .compress
  | 0x09 => decodeNoOperand w .block
  | 0x0A => decodeNoOperand w .finish
  | 0x0B => .ok (.digest (argOf w).toNat)
  | _ => .error (.reservedOpcode (opcOf w))

/-- The decoder (R87), total on every 64-bit word. -/
def decode (w : Word) : Except DecodeError Instr :=
  if rsv2Of w ≠ 0 then .error .rsv2NotZero
  else if rsv1Of w ≠ 0 then .error .rsv1NotZero
  else decodeOpcode w

/-- legal(word), as R85 writes it. -/
def legalWord (w : Word) : Bool :=
  rsv2Of w == 0 && rsv1Of w == 0 && decide (1 ≤ (opcOf w).toNat) && decide ((opcOf w).toNat ≤ 0x0B) &&
    (opcOf w == 0x01 || opcOf w == 0x06 || opcOf w == 0x0B || argOf w == 0)

/-- The opcode of a command (R84). -/
def opcodeOf : Instr → Byte
  | .init _ => 0x01
  | .pad => 0x02
  | .loadblk => 0x03
  | .sched => 0x04
  | .cstart => 0x05
  | .round _ => 0x06
  | .cfinal => 0x07
  | .compress => 0x08
  | .block => 0x09
  | .finish => 0x0A
  | .digest _ => 0x0B

/-- The operand of a command, 0 where it has none (R82). -/
def operandOf : Instr → Nat
  | .init v => v
  | .round n => n
  | .digest v => v
  | .pad => 0
  | .loadblk => 0
  | .sched => 0
  | .cstart => 0
  | .cfinal => 0
  | .compress => 0
  | .block => 0
  | .finish => 0

/-- The word of a command, `(ARG << 16) | OPC` (R88). -/
def encode (i : Instr) : Word :=
  ((BitVec.ofNat 16 (operandOf i)).setWidth 64 <<< 16) ||| (opcodeOf i).setWidth 64

/-- The host's fixed reading of one table word: the command is the single 64-bit word with bits `w` (R81), every bit above
`nbits` 0. -/
def decodeTableWord (nbits w : Nat) : Option Instr :=
  match decode (BitVec.ofNat 64 (w % 2 ^ nbits)) with
  | .ok i => some i
  | .error _ => none

end Sys2Proof
end

