-- ==== Sys2Proof/Machine/Flags.lean ====
section
/-! DEFINITION. STATUS as a register, and the error codes (spec 10_state.md R39; 60_exceptions.md R201). STATUS is the engine's
only flag register (R38): no word operation writes a flag (R122, 41_scheduler_compression.md). -/

namespace Sys2Proof.Machine

/-- The errors a command can raise (R201). UnsupportedLengthError, code 3, is never raised (R109), and codes 7 .. 15 are never
produced. -/
inductive ErrorName where
  /-- LengthError: LOADBLK, BLOCK. -/
  | lengthError
  /-- InvalidVariantError: INIT, DIGEST. -/
  | invalidVariant
  /-- CapacityError: PAD, DIGEST. -/
  | capacityError
  /-- IllegalCommandError: any command word. -/
  | illegalCommand
  /-- SequenceError: every command but INIT and DIGEST. -/
  | sequenceError
deriving DecidableEq, Repr

/-- The code an error leaves in STATUS.ERRCODE (R201). -/
def errorCode : ErrorName → BitVec 4
  | .lengthError => 1
  | .invalidVariant => 2
  | .capacityError => 4
  | .illegalCommand => 5
  | .sequenceError => 6

/-- A one-bit field of STATUS at bit `i`. -/
def statusBit (b : Bool) (i : Nat) : Word := (BitVec.ofBool b).setWidth 64 <<< i

/-- STATUS as the host reads it with BUSY = 0 (R39). Bits [7:5] and [63:12] read 0. -/
def Status.word (st : Status) : Word :=
  statusBit st.busy 0 ||| statusBit st.done 1 ||| statusBit st.cact 2 ||| statusBit st.cmdovr 3 |||
    statusBit st.wrovr 4 ||| (st.errcode.setWidth 64 <<< 8)

/-- The bits of STATUS that read exactly while BUSY = 1: BUSY, CMDOVR and WROVR (R67). -/
def exactStatusBits : Word := 0x19

/-- STATUS as the host reads it while BUSY = 1: BUSY, CMDOVR and WROVR exact, every other bit from the free draw (R67;
assumption 7). -/
def Status.busyWord (st : Status) (draw : Word) : Word :=
  (st.word &&& exactStatusBits) ||| (draw &&& ~~~exactStatusBits)

end Sys2Proof.Machine
end

