-- ==== Sys2Proof/Machine/Ops.lean ====
section
/-! DEFINITION. The shared operations of SHA512CE: reading and writing MSG (spec 20_memory.md R53, R55), raising an error and
leaving it (60_exceptions.md R205 to R208), and the frame every command runs in (43_commands.md R160). -/

namespace Sys2Proof.Machine

/-! ### The message buffer -/

/-- The byte written at an offset, none where nothing has been written since reset. -/
def Mem.find : Mem → Nat → Option Byte
  | [], _ => none
  | (k, b) :: rest, off => if off = k then some b else Mem.find rest off

/-- Store one byte, keeping the offsets rising. -/
def Mem.store : Mem → Nat → Byte → Mem
  | [], off, v => [(off, v)]
  | (k, b) :: rest, off, v =>
    if off < k then (off, v) :: (k, b) :: rest
    else if off = k then (off, v) :: rest
    else (k, b) :: Mem.store rest off v

/-- MemWrite(off, |bytes|, bytes) (R13, R55). -/
def Mem.storeBytes (m : Mem) (off : Nat) : List Byte → Mem
  | [] => m
  | b :: bytes => Mem.storeBytes (Mem.store m off b) (off + 1) bytes

/-- MSG[off] (R53): the byte written there, and where nothing has been written since reset the free draw of that reset (R48;
assumption 2). -/
def msgByte (s : State) (off : Nat) : Byte :=
  match Mem.find s.msg off with
  | some b => b
  | none => Config.msgDraw s.epoch off

/-- MemRead(off, n) (R13, R55). -/
def memRead (s : State) (off n : Nat) : Vector Byte n := Vector.ofFn fun j : Fin n => msgByte s (off + j.val)

/-! ### Errors -/

/-- raise Error(e), R206: STATUS.ERRCODE takes the code and DONE is cleared; nothing else is written (R200, R207). This is the
machine's only exception entry: there is no trap, no saved state and no handler (R210). -/
def raiseError (e : ErrorName) (s : State) : State :=
  { s with status := { s.status with errcode := errorCode e, done := false } }

/-- Leaving an error, R208: an INIT or DIGEST that passes the gate clears ERRCODE. There is no return-from-error operation. -/
def clearError (s : State) : State := { s with status := { s.status with errcode := 0 } }

/-! ### The command frame -/

/-- The two opcodes that run with an error latched and clear it: INIT and DIGEST (R160, R205). -/
def restarts (opc : Byte) : Bool := opc == 0x01 || opc == 0x0B

/-- The error gate (R205): with an error latched, a command whose OPC is neither INIT's nor DIGEST's is ignored. It reads only
OPC (R87). -/
def gateClosed (opc : Byte) (s : State) : Bool := s.status.errcode != 0 && !restarts opc

/-- CMDOVR <- 0; WROVR <- 0 (R160), unless `Turn.start` did it already for this command (assumption 5). -/
def clearOverruns (s : State) : State :=
  if s.begun then s else { s with status := { s.status with cmdovr := false, wrovr := false } }

/-- The frame's writes before the command's checks (R160): INIT and DIGEST clear ERRCODE, CMDOVR and WROVR; every command but
FINISH clears DONE. -/
def openFrame (opc : Byte) (s : State) : State :=
  let s := if restarts opc then clearOverruns (clearError s) else s
  if opc = 0x0A then s else { s with status := { s.status with done := false } }

/-- STATUS.BUSY <- 0, the end of every command (R160). -/
def endCommand (s : State) : State := { s with status := { s.status with busy := false }, begun := false }

/-- What the checks and effects of a command come to. -/
inductive Verdict where
  /-- Every check passed, and the effects give this state. -/
  | acted (s : State)
  /-- A check failed and raises this error; no effect has happened (R207). -/
  | raised (e : ErrorName)
  /-- The machine stops. -/
  | stopped (f : Fault)
deriving DecidableEq, Repr

/-- perform(word), R160, for a word with this OPC whose checks and effects are `body`. -/
def perform (opc : Byte) (body : State → Verdict) (s : State) : Host.Outcome State Fault Refusal :=
  if gateClosed opc s then .next (endCommand s)
  else
    match body (openFrame opc s) with
    | .acted t => .next (endCommand t)
    | .raised e => .next (endCommand (raiseError e (openFrame opc s)))
    | .stopped f => .fault f

/-- A word that is not legal: IllegalCommandError, after the gate and the frame (R160, R176, R209). DESIGN CHOICE (assumption 21),
unsafe: where its OPC is 0x01 or 0x0B, the frame clears CMDOVR and WROVR before the legality check, as R160's pseudocode has it, with
ERRCODE 0 or not; R176 says that the word changes no state but DONE, and R43 that the bits stay until an INIT or DIGEST acts. -/
def performIllegal (word : Word) (s : State) : Host.Outcome State Fault Refusal :=
  perform (opcOf word) (fun _ => .raised .illegalCommand) s

/-- An accepted CMD write: PEND <- v and BUSY <- 1 in one step (R37, R241). -/
def acceptCommand (v : Word) (s : State) : State :=
  { s with pend := v, status := { s.status with busy := true }, begun := false }

end Sys2Proof.Machine
end

