-- ==== Sys2Proof/Machine/Bus.lean ====
section
/-! DEFINITION. The outside world's events: the host's accesses (spec 20_memory.md R50 to R68; 70_reset_and_hazards.md R241, R242)
and the reset event (R230). -/

namespace Sys2Proof.Machine

/-- A register as the host reads it with BUSY = 0; CMD reads 0 (R28, R29). -/
def readReg (r : Reg) (s : State) : Word :=
  match r with
  | .cmd => 0
  | .status => s.status.word
  | .variant => s.variant
  | .outlen => s.outlen
  | .mlen => s.mlen
  | .plen => s.plen
  | .nblk => s.nblk
  | .bidx => s.bidx
  | .tcnt => s.tcnt
  | .capacity => s.capacity
  | .h i => s.h[i]
  | .wr i => s.wr.toVector[i]
  | .blk i => s.blk[i]
  | .w t => s.w[t]

/-- A byte of the DOUT window: DBUF[j] while DONE = 1 and j < OUTLEN, else 0 (R54). -/
def readDout (j : Fin 64) (s : State) : Byte :=
  if s.status.done = true ∧ j.val < s.outlen.toNat then s.dbuf[j] else 0

/-- What a legal read returns with BUSY = 0 (R53, R54, R57). -/
def idleReadData (loc : Location) (s : State) : Word :=
  match loc with
  | .reg r => readReg r s
  | .dout j => (readDout j s).setWidth 64
  | .msg j => (msgByte s j).setWidth 64

/-- What a legal read returns while BUSY = 1: CAPACITY exact, STATUS exact in BUSY, CMDOVR and WROVR, everything else the next
free draw, an 8-bit read its low 8 bits (R67, R242). -/
def busyReadData (loc : Location) (s : State) : Word :=
  let draw := Config.busyDraw s.draws
  match loc with
  | .reg .capacity => s.capacity
  | .reg .status => s.status.busyWord draw
  | .reg _ => draw
  | .dout _ => (draw.setWidth 8).setWidth 64
  | .msg _ => (draw.setWidth 8).setWidth 64

/-- A host write to a register with BUSY = 0 (R28, R29, R37): CMD accepts a command, an RW register takes the value, an RO
register ignores it. -/
def writeReg (r : Reg) (v : Word) (s : State) : State :=
  match r with
  | .cmd => acceptCommand v s
  | .mlen => { s with mlen := v }
  | .bidx => { s with bidx := v }
  | .h i => { s with h := s.h.set i v }
  | .blk i => { s with blk := s.blk.set i v }
  | .status => s
  | .variant => s
  | .outlen => s
  | .plen => s
  | .nblk => s
  | .tcnt => s
  | .capacity => s
  | .wr _ => s
  | .w _ => s

/-- A legal write with BUSY = 0 (R53, R57). -/
def storeAt (loc : Location) (v : Word) (s : State) : State :=
  match loc with
  | .reg r => writeReg r v s
  | .msg j => { s with msg := Mem.store s.msg j (v.setWidth 8) }
  | .dout _ => s

/-- A legal write while BUSY = 1 is dropped: CMD sets CMDOVR, any other location WROVR (R241). -/
def dropWrite (loc : Location) (s : State) : State :=
  match loc with
  | .reg .cmd => { s with status := { s.status with cmdovr := true } }
  | _ => { s with status := { s.status with wrovr := true } }

/-- A host read (R57, R58, R67). A read changes nothing but the model's own fields (R60). -/
def hostRead (width : Width) (offset : Word) (s : State) : State :=
  match readTarget width s.capacity.toNat offset with
  | none => { s with reply := some (.read 0 true) }
  | some loc =>
    if s.status.busy then { s with reply := some (.read (busyReadData loc s) false), draws := s.draws + 1 }
    else { s with reply := some (.read (idleReadData loc s) false) }

/-- A host write (R57, R58, R241). -/
def hostWrite (width : Width) (offset v : Word) (s : State) : State :=
  match writeTarget width s.capacity.toNat offset with
  | none => { s with reply := some (.written true) }
  | some loc =>
    if s.status.busy then { dropWrite loc s with reply := some (.written false) }
    else { storeAt loc v s with reply := some (.written false) }

/-- One host access (R65). -/
def hostAccess (a : Access) (s : State) : State :=
  match a with
  | .read width offset => hostRead width offset s
  | .write width offset v => hostWrite width offset v s

/-- The reset event (R230): every state element takes its value of R48; CAPACITY is a constant; MSG is drawn anew. The model's
own counters go on, and the moves to come stay. -/
def resetEvent (s : State) : State :=
  { State.reset with capacity := s.capacity, epoch := s.epoch + 1, draws := s.draws, turns := s.turns }

/-- The engine starts the pending command without completing it (assumption 5): INIT and DIGEST clear CMDOVR and WROVR, once
for each command (R160). -/
def startPending (s : State) : State :=
  if s.status.busy && !s.begun && restarts (opcOf s.pend) then { clearOverruns s with begun := true } else s

end Sys2Proof.Machine
end

