-- ==== Sys2Proof/Machine/Codec.lean ====
section
/-! DEFINITION. The WordCodec and the Padder as pure functions (spec 40_codec_padder_segmenter.md R100 to R110). Everything is
big-endian (R61). -/

namespace Sys2Proof.Machine

/-- The word whose bytes are `b0` (most significant) .. `b7` (R100). -/
def wordOfBytes (b0 b1 b2 b3 b4 b5 b6 b7 : Byte) : Word :=
  (b0.setWidth 64 <<< 56) ||| (b1.setWidth 64 <<< 48) ||| (b2.setWidth 64 <<< 40) ||| (b3.setWidth 64 <<< 32) |||
    (b4.setWidth 64 <<< 24) ||| (b5.setWidth 64 <<< 16) ||| (b6.setWidth 64 <<< 8) ||| b7.setWidth 64

/-- Byte k of a word, k = 0 the most significant: bits [63-8k : 56-8k] (R101). -/
def byteOfWord (x : Word) (k : Nat) : Byte := x.extractLsb' (56 - 8 * k) 8

/-- BytesToWords(B), for a byte sequence whose length is a multiple of 8, the only ones it is defined on (R100). -/
def bytesToWords {n : Nat} (bytes : Vector Byte (8 * n)) : Vector Word n :=
  Vector.ofFn fun i : Fin n =>
    wordOfBytes bytes[8 * i.val] bytes[8 * i.val + 1] bytes[8 * i.val + 2] bytes[8 * i.val + 3]
      bytes[8 * i.val + 4] bytes[8 * i.val + 5] bytes[8 * i.val + 6] bytes[8 * i.val + 7]

/-- WordsToBytes(w) (R101). -/
def wordsToBytes {n : Nat} (words : Vector Word n) : Vector Byte (8 * n) :=
  Vector.ofFn fun j : Fin (8 * n) => byteOfWord (words[j.val / 8]'(by omega)) (j.val % 8)

/-- BE_n(v): the n-byte big-endian encoding of a number v < 2^(8n) (R12). -/
def bigEndian : (n v : Nat) → List Byte
  | 0, _ => []
  | n + 1, v => BitVec.ofNat 8 (v / 256 ^ n) :: bigEndian n v

/-- PLEN(L) = 128 * ceil((L + 17) / 128), computed exactly (R105). -/
def paddedLength (len : Nat) : Nat := 128 * ((len + 17 + 127) / 128)

/-- The number of 0x00 bytes between 0x80 and the length field: PLEN - L - 17 (R106, R162). -/
def zeroCount (len : Nat) : Nat := paddedLength len - len - 17

/-- The 128-bit length field BE_16(8 * L) (R104). -/
def lengthField (len : Nat) : List Byte := bigEndian 16 (8 * len)

end Sys2Proof.Machine
end

