-- ==== Sys2Proof/Machine/Effects.lean ====
section
/-! DEFINITION. What each component does to the state once a command's checks have passed (the Effects of spec 43_commands.md
R161 to R171). BLOCK and DIGEST are made of the same effects as the finer commands (R169, R171). -/

namespace Sys2Proof.Machine

/-- The effects of INIT with a legal selector (R161): VARIANT, OUTLEN and H are loaded, PLEN, NBLK, BIDX, TCNT and CACT cleared;
MLEN, MSG, BLK, W, WR and DBUF stay. -/
def loadVariant (x : Variant) (s : State) : State :=
  { s with
    variant := BitVec.ofNat 64 (variantBits x)
    outlen := BitVec.ofNat 64 (variantBytes x)
    h := initialHash x
    plen := 0
    nblk := 0
    bidx := 0
    tcnt := 0
    status := { s.status with cact := false } }

/-- MSG after padding the message MSG[0..len) in place: the three MemWrites of R162. It is irreducible so that the elaborator
does not write out the padding when it compares two states; its equation and the kernel's evaluation are as for any other. -/
@[irreducible] def padMemory (m : Mem) (len : Nat) : Mem :=
  Mem.storeBytes
    (Mem.storeBytes
      (Mem.storeBytes m len [0x80])
      (len + 1) (List.replicate (zeroCount len) 0x00))
    (paddedLength len - 16) (lengthField len)

/-- The effects of PAD (R162). -/
def padMessage (s : State) : State :=
  { s with
    msg := padMemory s.msg s.mlen.toNat
    plen := BitVec.ofNat 64 (paddedLength s.mlen.toNat)
    nblk := BitVec.ofNat 64 (paddedLength s.mlen.toNat / 128)
    bidx := 0 }

/-- The message fits: PLEN(MLEN) <= MSG_BYTES, compared as exact integers (R162, R171). -/
def messageFits (s : State) : Bool := decide (paddedLength s.mlen.toNat ≤ s.capacity.toNat)

/-- Block BIDX lies inside MSG (R55). -/
def blockInsideMsg (s : State) : Bool := decide (128 * s.bidx.toNat + 128 ≤ s.capacity.toNat)

/-- Block i of MSG as 16 words (R112). Irreducible for the reason `padMemory` is. -/
@[irreducible] def blockWords (s : State) (i : Nat) : Vector Word 16 := bytesToWords (n := 16) (memRead s (128 * i) 128)

/-- The effects of LOADBLK (R163). -/
def loadBlock (s : State) : State := { s with blk := blockWords s s.bidx.toNat }

/-- The effects of SCHED (R164). -/
def expandBlock (s : State) : State := { s with w := schedule s.blk }

/-- The effects of CSTART (R165). -/
def startCompression (s : State) : State :=
  { s with wr := workOfHash s.h, tcnt := 0, status := { s.status with cact := true } }

/-- The effects of ROUND n (R166): rounds TCNT .. TCNT + n - 1. -/
def advanceRounds (n : Nat) (s : State) : State :=
  { s with wr := runRounds s.w n s.tcnt.toNat s.wr, tcnt := BitVec.ofNat 64 (s.tcnt.toNat + n) }

/-- The effects of CFINAL (R167). -/
def finishCompression (s : State) : State :=
  { s with h := feedForward s.h s.wr, status := { s.status with cact := false } }

/-- The effects of COMPRESS (R168). -/
def compressBlock (s : State) : State :=
  { s with wr := compressedWork s.h s.w, tcnt := 80, h := compressHash s.h s.w }

/-- BIDX <- BIDX + 1 (R169). -/
def advanceIndex (s : State) : State := { s with bidx := s.bidx + 1 }

/-- The effects of BLOCK (R169): LOADBLK's, SCHED's and COMPRESS's, then BIDX + 1. -/
def processBlock (s : State) : State := advanceIndex (compressBlock (expandBlock (loadBlock s)))

/-- The effects of BLOCK, `n` times over, each block's H the next one's input (R171, R114). -/
def processBlocks : Nat → State → State
  | 0, s => s
  | n + 1, s => processBlocks n (processBlock s)

/-- The effects of FINISH (R170): all 64 bytes of H into DBUF, and DONE (R152). -/
def writeDigest (s : State) : State :=
  { s with dbuf := wordsToBytes (n := 8) s.h, status := { s.status with done := true } }

/-- The effects of DIGEST with a legal selector (R171): INIT's, PAD's, BLOCK's for every block in order, FINISH's. -/
def digestMessage (x : Variant) (s : State) : State :=
  let s := padMessage (loadVariant x s)
  writeDigest (processBlocks s.nblk.toNat s)

end Sys2Proof.Machine
end

