-- ==== Sys2Proof/Machine/CompressionEngine.lean ====
section
/-! DEFINITION. CSTART, ROUND, CFINAL and COMPRESS (spec 43_commands.md R165 to R168). -/

namespace Sys2Proof.Machine

/-- CSTART's checks, in order, and effects (R165). -/
def cstartBody (s : State) : Verdict :=
  if s.variant = 0 then .raised .sequenceError
  else if s.status.cact then .raised .sequenceError
  else .acted (startCompression s)

/-- CSTART (R165). -/
def execCstart (s : State) : Host.Outcome State Fault Refusal := perform 0x05 cstartBody s

/-- ROUND's checks, in order, and effects (R166). -/
def roundBody (n : Nat) (s : State) : Verdict :=
  if s.variant = 0 then .raised .sequenceError
  else if s.status.cact = false then .raised .sequenceError
  else if n = 0 ∨ 80 < s.tcnt.toNat + n then .raised .sequenceError
  else .acted (advanceRounds n s)

/-- ROUND n (R166). -/
def execRound (n : Nat) (s : State) : Host.Outcome State Fault Refusal := perform 0x06 (roundBody n) s

/-- CFINAL's checks, in order, and effects (R167). -/
def cfinalBody (s : State) : Verdict :=
  if s.variant = 0 then .raised .sequenceError
  else if s.status.cact = false then .raised .sequenceError
  else if s.tcnt ≠ 80 then .raised .sequenceError
  else .acted (finishCompression s)

/-- CFINAL (R167). -/
def execCfinal (s : State) : Host.Outcome State Fault Refusal := perform 0x07 cfinalBody s

/-- COMPRESS's checks, in order, and effects (R168). -/
def compressBody (s : State) : Verdict :=
  if s.variant = 0 then .raised .sequenceError
  else if s.status.cact then .raised .sequenceError
  else .acted (compressBlock s)

/-- COMPRESS (R168). -/
def execCompress (s : State) : Host.Outcome State Fault Refusal := perform 0x08 compressBody s

end Sys2Proof.Machine
end

