-- ==== Sys2Proof/Machine/DigestDriver.lean ====
section
/-! DEFINITION. BLOCK, FINISH and DIGEST (spec 43_commands.md R169 to R171). -/

namespace Sys2Proof.Machine

/-- BLOCK's checks, in order, and effects (R169). -/
def blockBody (s : State) : Verdict :=
  if s.variant = 0 then .raised .sequenceError
  else if s.status.cact then .raised .sequenceError
  else if s.nblk ≤ s.bidx then .raised .lengthError
  else if blockInsideMsg s = false then .stopped .blockOutsideMsg
  else .acted (processBlock s)

/-- BLOCK (R169). -/
def execBlock (s : State) : Host.Outcome State Fault Refusal := perform 0x09 blockBody s

/-- FINISH's checks, in order, and effects (R170). -/
def finishBody (s : State) : Verdict :=
  if s.variant = 0 then .raised .sequenceError
  else if s.status.cact then .raised .sequenceError
  else .acted (writeDigest s)

/-- FINISH (R170). -/
def execFinish (s : State) : Host.Outcome State Fault Refusal := perform 0x0A finishBody s

/-- DIGEST's checks, in order, and effects (R171). The checks read the state before any effect. -/
def digestBody (v : Nat) (s : State) : Verdict :=
  match variantOf v with
  | none => .raised .invalidVariant
  | some x => if messageFits s = false then .raised .capacityError else .acted (digestMessage x s)

/-- DIGEST v (R171). -/
def execDigest (v : Nat) (s : State) : Host.Outcome State Fault Refusal := perform 0x0B (digestBody v) s

end Sys2Proof.Machine
end

