-- ==== Sys2Proof/Machine/PadderSegmenter.lean ====
section
/-! DEFINITION. PAD and LOADBLK (spec 43_commands.md R162, R163). -/

namespace Sys2Proof.Machine

/-- PAD's checks, in order, and effects (R162). -/
def padBody (s : State) : Verdict :=
  if s.variant = 0 then .raised .sequenceError
  else if messageFits s = false then .raised .capacityError
  else .acted (padMessage s)

/-- PAD (R162). -/
def execPad (s : State) : Host.Outcome State Fault Refusal := perform 0x02 padBody s

/-- LOADBLK's checks, in order, and effects (R163). The third check cannot fail in a state reachable from reset (R204). -/
def loadblkBody (s : State) : Verdict :=
  if s.variant = 0 then .raised .sequenceError
  else if s.nblk ≤ s.bidx then .raised .lengthError
  else if s.plen.toNat % 128 ≠ 0 then .raised .lengthError
  else if blockInsideMsg s = false then .stopped .blockOutsideMsg
  else .acted (loadBlock s)

/-- LOADBLK (R163). -/
def execLoadblk (s : State) : Host.Outcome State Fault Refusal := perform 0x03 loadblkBody s

end Sys2Proof.Machine
end

