-- ==== Sys2Proof/Machine/Scheduler.lean ====
section
/-! DEFINITION. SCHED (spec 43_commands.md R164). -/

namespace Sys2Proof.Machine

/-- SCHED's checks, in order, and effects (R164). -/
def schedBody (s : State) : Verdict :=
  if s.variant = 0 then .raised .sequenceError
  else if s.status.cact then .raised .sequenceError
  else .acted (expandBlock s)

/-- SCHED (R164). -/
def execSched (s : State) : Host.Outcome State Fault Refusal := perform 0x04 schedBody s

end Sys2Proof.Machine
end

