-- ==== Sys2Proof/Machine/VariantConfig.lean ====
section
/-! DEFINITION. INIT (spec 43_commands.md R161). -/

namespace Sys2Proof.Machine

/-- INIT's check and effects (R161). -/
def initBody (v : Nat) (s : State) : Verdict :=
  match variantOf v with
  | none => .raised .invalidVariant
  | some x => .acted (loadVariant x s)

/-- INIT v (R161). -/
def execInit (v : Nat) (s : State) : Host.Outcome State Fault Refusal := perform 0x01 (initBody v) s

end Sys2Proof.Machine
end

