-- ==== Sys2Proof/Machine/Dispatch.lean ====
section
/-! DEFINITION. One arm per command (spec 30_encoding.md R84). -/

namespace Sys2Proof.Machine

def exec (i : Instr) (s : State) : Host.Outcome State Fault Refusal :=
  match i with
  | .init v => Sys2Proof.Machine.execInit v s
  | .pad => Sys2Proof.Machine.execPad s
  | .loadblk => Sys2Proof.Machine.execLoadblk s
  | .sched => Sys2Proof.Machine.execSched s
  | .cstart => Sys2Proof.Machine.execCstart s
  | .round n => Sys2Proof.Machine.execRound n s
  | .cfinal => Sys2Proof.Machine.execCfinal s
  | .compress => Sys2Proof.Machine.execCompress s
  | .block => Sys2Proof.Machine.execBlock s
  | .finish => Sys2Proof.Machine.execFinish s
  | .digest v => Sys2Proof.Machine.execDigest v s

end Sys2Proof.Machine
end

