-- ==== Sys2Proof/Machine/Engine.lean ====
section
/-! DEFINITION. Whose move a step is and what it does (spec 10_state.md R20; 20_memory.md R65; 70_reset_and_hazards.md R248). -/

namespace Sys2Proof.Machine

/-- The engine performs PEND (R160): a legal word is its command, any other word raises IllegalCommandError (R87, R176). -/
def performPending (s : State) : Host.Outcome State Fault Refusal :=
  match decode s.pend with
  | .ok i => exec i s
  | .error _ => performIllegal s.pend s

/-- The engine's move: with BUSY = 1 it performs PEND as one atomic step (R248), with BUSY = 0 it keeps all state (R220). -/
def engineTurn (s : State) : Host.Outcome State Fault Refusal :=
  if s.status.busy then performPending s else .next s

/-- One move (R20, R230). -/
def takeTurn (t : Turn) (s : State) : Host.Outcome State Fault Refusal :=
  match t with
  | .engine => engineTurn s
  | .start => .next (startPending s)
  | .access a => .next (hostAccess a s)
  | .reset => .next (resetEvent s)

/-- The move to come and the state without it. When no move is left the engine moves, so that no command stays busy forever
(R248; assumption 4). -/
def nextTurn (s : State) : Turn × State :=
  match s.turns with
  | [] => (.engine, s)
  | t :: rest => (t, { s with turns := rest })

/-- Take the move to come. -/
def takeNextTurn (s : State) : Host.Outcome State Fault Refusal := takeTurn (nextTurn s).1 (nextTurn s).2

/-- Place a command where the engine takes its next one: as an accepted CMD write does (R37), with the engine to move. -/
def placeCommand (w : Word) (s : State) : State :=
  { acceptCommand w s with turns := .engine :: s.turns }

end Sys2Proof.Machine
end

