-- ==== Sys2Proof/Machine/Step.lean ====
section
/-! DEFINITION. One step of the machine, and how the host places a command for it. -/

namespace Sys2Proof.Machine

/-- One step: the next move, by the engine, the host or the reset input (R20, R65, R230, R248). -/
def step (s : State) : Host.Outcome State Fault Refusal := takeNextTurn s

/-- The state in which the very next step performs the command word with bits `w`: an accepted CMD write of it (R37), with the
engine to move. -/
def State.withFetchWord (s : State) (nbits w : Nat) : State := placeCommand (BitVec.ofNat 64 (w % 2 ^ nbits)) s

end Sys2Proof.Machine
end

