-- ==== Sys2Proof/Machine/Reference.lean ====
section
/-! DEFINITION. The source's one public operation `Digest(input, variant)` as a pure function on byte lists (spec
40_codec_padder_segmenter.md R103 to R114; 41_scheduler_compression.md R134; 42_variant_config.md R152): what the engine's DIGEST is
to be held against (43_commands.md R175). The machine does not use it. -/

namespace Sys2Proof.Machine

/-- Pad(M) (R106). -/
def refPad (m : List Byte) : List Byte :=
  m ++ [0x80] ++ List.replicate ((128 - (m.length + 17) % 128) % 128) 0x00 ++ bigEndian 16 (8 * m.length)

/-- Block i of a padded message, as 16 words (R111, R112). -/
def refBlock (p : List Byte) (i : Nat) : Vector Word 16 :=
  bytesToWords (n := 16) (Vector.ofFn fun j : Fin 128 => p.getD (128 * i + j.val) 0)

/-- Rounds t, t + 1, .., t + n - 1 in ascending order, round j with W[j] and K[j] (R130, R133, R166). -/
def refRounds (w : Vector Word 80) (t n : Nat) (r : WorkRegs) : WorkRegs :=
  (List.range n).foldl (fun r k => shaRound r (wordAt w (t + k)) (roundConstant (t + k))) r

/-- H_0 = IV and H_(i+1) = Compress(H_i, Schedule(B_i)): the hash state after `n` blocks (R134). -/
def refChain (p : List Byte) (iv : Vector Word 8) : Nat → Vector Word 8
  | 0 => iv
  | n + 1 => compressHash (refChain p iv n) (schedule (refBlock p n))

/-- The final hash state of a message (R134). -/
def refHash (m : List Byte) (x : Variant) : Vector Word 8 :=
  refChain (refPad m) (initialHash x) ((refPad m).length / 128)

/-- Digest(M, v): the first v/8 bytes of the big-endian concatenation of the final H (R151, R152). -/
def refDigest (m : List Byte) (x : Variant) : List Byte :=
  (wordsToBytes (n := 8) (refHash m x)).toList.take (variantBytes x)

/-- The message in the engine: MSG[0..MLEN) (R33). -/
def messageBytes (s : State) : List Byte := (List.range s.mlen.toNat).map (msgByte s)

end Sys2Proof.Machine
end

