-- ==== Sys2Proof/Safety.lean ====
section
/-! DEFINITION. What the claims speak of: the invariant of SHA512CE's states (spec 10_state.md R49), runs of commands, and what
counts as a safe step. -/

namespace Sys2Proof.Machine

/-- The invariants R49 lists, with the ones the register map, the error table and the message buffer give (R28, R36, R201, R53).
They hold with BUSY = 0 and with BUSY = 1, because a command is one step (R248). -/
structure State.Inv (s : State) : Prop where
  /-- VARIANT holds 0 or a legal digest bit length (R49). -/
  variant_legal : s.variant ∈ ([0, 224, 256, 384, 512] : List Word)
  /-- OUTLEN is VARIANT / 8 (R32), so VARIANT = 0 exactly when OUTLEN = 0 (R49). -/
  outlen_eq : s.outlen.toNat = s.variant.toNat / 8
  /-- PLEN = 128 * NBLK (R49). -/
  plen_eq : s.plen.toNat = 128 * s.nblk.toNat
  /-- PLEN <= MSG_BYTES (R49). -/
  plen_fits : s.plen.toNat ≤ s.capacity.toNat
  /-- TCNT <= 80 (R49). -/
  tcnt_le : s.tcnt.toNat ≤ 80
  /-- ERRCODE is 0 or a code that some error has (R201). -/
  errcode_legal : s.status.errcode ∈ ([0, 1, 2, 4, 5, 6] : List (BitVec 4))
  /-- ERRCODE ≠ 0 implies DONE = 0 (R49). -/
  error_not_done : s.status.errcode ≠ 0 → s.status.done = false
  /-- DONE = 1 implies VARIANT ≠ 0 (R49). -/
  done_variant : s.status.done = true → s.variant ≠ 0
  /-- CACT = 1 implies VARIANT ≠ 0 (R49). -/
  cact_variant : s.status.cact = true → s.variant ≠ 0
  /-- MSG_BYTES is a multiple of 128 (R9). -/
  capacity_mod : s.capacity.toNat % 128 = 0
  /-- MSG_BYTES is at least 128 (R9). -/
  capacity_ge : 128 ≤ s.capacity.toNat
  /-- MSG_BYTES is at most 2^48 (R9). -/
  capacity_le : s.capacity.toNat ≤ 2 ^ 48
  /-- The message buffer is in its canonical form. -/
  msg_wf : Mem.wf s.msg
  /-- Nothing has been written outside MSG[0..MSG_BYTES) (R55). -/
  msg_inside : ∀ c ∈ s.msg, c.1 < s.capacity.toNat

/-- A step is safe: the machine goes on. -/
def SafeStep (s : State) : Prop := ∃ t, step s = .next t

/-- The state a command leaves when it started with no error latched and a check of it raised the error with this code: ERRCODE
and DONE are written, BUSY is cleared, and nothing else changes (R206, R207; `begun` is the model's own mark). -/
def State.failed (code : BitVec 4) (s : State) : State :=
  { s with begun := false, status := { s.status with busy := false, done := false, errcode := code } }

/-- As `State.failed`, for INIT and DIGEST, whose frame also clears CMDOVR and WROVR (R160), and, by the choice of assumption 21, for
an illegal word with their OPC. -/
def State.restartFailed (code : BitVec 4) (s : State) : State :=
  { s with
    begun := false
    status := { s.status with busy := false, done := false, cmdovr := false, wrovr := false, errcode := code } }

/-- Perform commands one after another, as a host does that polls BUSY between them (R68, R90). -/
def execList : List Instr → State → Host.Outcome State Fault Refusal
  | [], s => .next s
  | i :: rest, s =>
    match exec i s with
    | .next t => execList rest t
    | .fault f => .fault f
    | .refused r => .refused r

/-- The command clears a latched error (R205, R208): INIT or DIGEST. -/
def clearsErrors : Instr → Bool
  | .init _ => true
  | .digest _ => true
  | .pad => false
  | .loadblk => false
  | .sched => false
  | .cstart => false
  | .round _ => false
  | .cfinal => false
  | .compress => false
  | .block => false
  | .finish => false

/-- The table of R203: when a command raises SequenceError. -/
def sequenceCause (s : State) : Instr → Prop
  | .pad => s.variant = 0
  | .loadblk => s.variant = 0
  | .sched => s.variant = 0 ∨ s.status.cact = true
  | .cstart => s.variant = 0 ∨ s.status.cact = true
  | .compress => s.variant = 0 ∨ s.status.cact = true
  | .finish => s.variant = 0 ∨ s.status.cact = true
  | .block => s.variant = 0 ∨ s.status.cact = true
  | .round n => s.variant = 0 ∨ s.status.cact = false ∨ n = 0 ∨ 80 < s.tcnt.toNat + n
  | .cfinal => s.variant = 0 ∨ s.status.cact = false ∨ s.tcnt ≠ 80
  | .init _ => False
  | .digest _ => False

end Sys2Proof.Machine
end

