-- ==== Sys2Proof/Certificates/Slice0/Obligations.lean ====
section
/-! DEFINITION. The statements about SHA512CE for the provers. Each docstring names the rule of spec/ it formalises, or the log
entry it rests on. -/

open Sys2Proof Sys2Proof.Machine

/-! ### Encoding -/

/-- R88: the word of a command is `(ARG << 16) | OPC`; the words R88 tabulates are the encodings of the commands they stand for and
decode to them; the words R176 and the reserved space of R86 name decode to no command. -/
def Obligations.TabulatedWordsDecode : Prop :=
  (∀ i : Instr, i.wellFormed = true → (encode i).toNat = operandOf i * 2 ^ 16 + (opcodeOf i).toNat) ∧
    (∀ row ∈ ([(.init 224, 0x0000000000E00001), (.init 256, 0x0000000001000001), (.init 384, 0x0000000001800001),
        (.init 512, 0x0000000002000001), (.pad, 0x0000000000000002), (.loadblk, 0x0000000000000003),
        (.sched, 0x0000000000000004), (.cstart, 0x0000000000000005), (.round 1, 0x0000000000010006),
        (.round 80, 0x0000000000500006), (.cfinal, 0x0000000000000007), (.compress, 0x0000000000000008),
        (.block, 0x0000000000000009), (.finish, 0x000000000000000A), (.digest 512, 0x000000000200000B),
        (.digest 384, 0x000000000180000B), (.digest 256, 0x000000000100000B), (.digest 224, 0x0000000000E0000B)] :
        List (Instr × Word)), encode row.1 = row.2 ∧ decode row.2 = .ok row.1) ∧
    ∀ w ∈ ([0x0000000000000000, 0x000000000000000C, 0x00000000000000FF, 0x0000000000010002, 0x0000000000500005,
        0x0000000000000104, 0x0000000100000001] : List Word), ∀ i, decode w ≠ .ok i

/-- Decoding the word of a well-formed command gives it back, with every operand ARG admits (R82, R87, R88). -/
def Obligations.DecodeOfEncode : Prop :=
  ∀ i : Instr, i.wellFormed = true → decode (encode i) = .ok i

/-- A word decodes exactly when R85 calls it legal, and it is then the word of the well-formed command it decodes to: no two
words stand for one command, and the decoder drops no bit (R85, R87). -/
def Obligations.DecodesExactlyLegalWords : Prop :=
  (∀ w : Word, legalWord w = true ↔ ∃ i, decode w = .ok i) ∧
    ∀ (w : Word) (i : Instr), decode w = .ok i → i.wellFormed = true ∧ encode i = w

/-- A step at which the engine moves with a legal word pending is `exec` of the decoded command on the state without that move;
nothing else is added around it (R87, R160, R248). That an empty list of moves lets the engine move, and that a word placed by
`withFetchWord` (it stands for an accepted CMD write) is run by the very next step, are the model's choices of assumption 4 (DESIGN
CHOICE), not rules of the spec. -/
def Obligations.StepRunsDecodedCommand : Prop :=
  (∀ (s : State) (rest : List Turn) (i : Instr), s.status.busy = true →
      (s.turns = .engine :: rest ∨ s.turns = [] ∧ rest = []) → decode s.pend = .ok i →
      step s = exec i { s with turns := rest }) ∧
    ∀ (s : State) (w : Word) (i : Instr), decode w = .ok i →
      step (s.withFetchWord 64 w.toNat) =
        exec i { s with pend := w, begun := false, status := { s.status with busy := true } }

/-- After R176, R160 and R205: a word that is not legal raises IllegalCommandError and changes nothing but the frame's fields; with an
error latched it is ignored, unless its OPC is 0x01 or 0x0B: then the frame clears the error first. That the frame of a word with OPC
0x01 or 0x0B also clears CMDOVR and WROVR is the model's choice of assumption 21 (DESIGN CHOICE: R160's pseudocode against R176's "It
changes no other state"). -/
def Obligations.IllegalWordRaisesIllegalCommand : Prop :=
  ∀ s : State, s.begun = false → legalWord s.pend = false →
    (opcOf s.pend ≠ 0x01 ∧ opcOf s.pend ≠ 0x0B ∧ s.status.errcode = 0 → performPending s = .next (s.failed 5)) ∧
      (opcOf s.pend ≠ 0x01 ∧ opcOf s.pend ≠ 0x0B ∧ s.status.errcode ≠ 0 →
        performPending s = .next { s with status := { s.status with busy := false } }) ∧
      (opcOf s.pend = 0x01 ∨ opcOf s.pend = 0x0B → performPending s = .next (s.restartFailed 5))

/-! ### Word functions and tables -/

/-- R120, R121, R123 to R128: `shr` divides by 2^n; bit i of `rotr n x` is bit (i + n) mod 64 of x; each bit of Ch is the y bit where
x is 1 and the z bit where x is 0; each bit of Maj is the majority; the four sigma functions combine them by exclusive or. -/
def Obligations.WordOperationsByBits : Prop :=
  (∀ (n : Nat) (x : Word), 0 < n → n < 64 →
      (shr n x).toNat = x.toNat / 2 ^ n ∧
        ∀ i : Nat, i < 64 → (rotr n x).getLsbD i = x.getLsbD ((i + n) % 64)) ∧
    (∀ (x y z : Word) (i : Nat), i < 64 →
      (ch x y z).getLsbD i = (if x.getLsbD i then y.getLsbD i else z.getLsbD i) ∧
        (maj x y z).getLsbD i =
          (x.getLsbD i && y.getLsbD i || x.getLsbD i && z.getLsbD i || y.getLsbD i && z.getLsbD i)) ∧
    ∀ (x : Word) (i : Nat), i < 64 →
      (sigma0 x).getLsbD i = (x.getLsbD ((i + 1) % 64) ^^ x.getLsbD ((i + 8) % 64) ^^ x.getLsbD (i + 7)) ∧
      (sigma1 x).getLsbD i = (x.getLsbD ((i + 19) % 64) ^^ x.getLsbD ((i + 61) % 64) ^^ x.getLsbD (i + 6)) ∧
      (bigSigma0 x).getLsbD i =
        (x.getLsbD ((i + 28) % 64) ^^ x.getLsbD ((i + 34) % 64) ^^ x.getLsbD ((i + 39) % 64)) ∧
      (bigSigma1 x).getLsbD i =
        (x.getLsbD ((i + 14) % 64) ^^ x.getLsbD ((i + 18) % 64) ^^ x.getLsbD ((i + 41) % 64))

/-- R129: words 0 to 15 are the block's, and each later word is computed from four earlier ones. -/
def Obligations.ScheduleRecurrence : Prop :=
  ∀ b : Vector Word 16,
    (∀ (t : Nat) (h : t < 16), (schedule b)[t] = b[t]) ∧
      ∀ (t : Nat) (_ : 16 ≤ t) (_ : t < 80),
        (schedule b)[t] =
          sigma1 (schedule b)[t - 2] + (schedule b)[t - 7] + sigma0 (schedule b)[t - 15] + (schedule b)[t - 16]

/-- R102: the two codec functions are inverses, both ways, at every length they are defined on. -/
def Obligations.WordCodecInverses : Prop :=
  (∀ (n : Nat) (w : Vector Word n), bytesToWords (wordsToBytes w) = w) ∧
    ∀ (n : Nat) (b : Vector Byte (8 * n)), wordsToBytes (bytesToWords b) = b

/-- R103: the padded bit length is the least multiple of 1024 that is at least 8L + 1 + 128. -/
def Obligations.PaddedLengthIsLeast : Prop :=
  ∀ len : Nat, 1024 ∣ 8 * paddedLength len ∧ 8 * len + 1 + 128 ≤ 8 * paddedLength len ∧
    ∀ m : Nat, 1024 ∣ m → 8 * len + 1 + 128 ≤ m → 8 * paddedLength len ≤ m

/-- R107: Pad(M) begins with M, then 0x80, then between 0 and 127 zero bytes, then the 16 bytes of BE_16(8L), whose value is 8L; its
suffix has between 17 and 144 bytes and its length is a positive multiple of 128. -/
def Obligations.PadOfMessageProperties : Prop :=
  ∀ m : List Byte, 8 * m.length < 2 ^ 128 →
    ∃ (z : Nat) (f : List Byte),
      refPad m = m ++ [0x80] ++ List.replicate z 0x00 ++ f ∧ z ≤ 127 ∧ f.length = 16 ∧
      f.foldl (fun n b => 256 * n + b.toNat) 0 = 8 * m.length ∧
      (refPad m).length = paddedLength m.length ∧ 17 ≤ (refPad m).length - m.length ∧
      (refPad m).length - m.length ≤ 144 ∧ (refPad m).length % 128 = 0 ∧ 128 ≤ (refPad m).length

/-- R148: K[t] is the first 64 bits of the fractional part of the cube root of the (t+1)-th prime, for all 80 primes. -/
def Obligations.RoundConstantsAreCubeRoots : Prop :=
  ∀ row ∈ ([2, 3, 5, 7, 11, 13, 17, 19, 23, 29, 31, 37, 41, 43, 47, 53, 59, 61, 67, 71, 73, 79, 83, 89, 97, 101, 103, 107,
      109, 113, 127, 131, 137, 139, 149, 151, 157, 163, 167, 173, 179, 181, 191, 193, 197, 199, 211, 223, 227, 229, 233,
      239, 241, 251, 257, 263, 269, 271, 277, 281, 283, 293, 307, 311, 313, 317, 331, 337, 347, 349, 353, 359, 367, 373,
      379, 383, 389, 397, 401, 409] : List Nat).zipIdx,
    ∃ c, c < 8 ∧ (c * 2 ^ 64 + (roundConstant row.2).toNat) ^ 3 ≤ row.1 * 2 ^ 192 ∧
      row.1 * 2 ^ 192 < (c * 2 ^ 64 + (roundConstant row.2).toNat + 1) ^ 3

/-- R145: IV_512 and IV_384 are the square roots of the first sixteen primes; IV_224 and IV_256 are the hashes of the ASCII strings
"SHA-512/224" and "SHA-512/256" from IV_512 with every word exclusive-ored with 0xA5A5A5A5A5A5A5A5. -/
def Obligations.InitialHashDefinitions : Prop :=
  (∀ row ∈ ([2, 3, 5, 7, 11, 13, 17, 19] : List Nat).zip (initialHash .v512).toList,
      ∃ c, c < 8 ∧ (c * 2 ^ 64 + row.2.toNat) ^ 2 ≤ row.1 * 2 ^ 128 ∧
        row.1 * 2 ^ 128 < (c * 2 ^ 64 + row.2.toNat + 1) ^ 2) ∧
    (∀ row ∈ ([23, 29, 31, 37, 41, 43, 47, 53] : List Nat).zip (initialHash .v384).toList,
      ∃ c, c < 8 ∧ (c * 2 ^ 64 + row.2.toNat) ^ 2 ≤ row.1 * 2 ^ 128 ∧
        row.1 * 2 ^ 128 < (c * 2 ^ 64 + row.2.toNat + 1) ^ 2) ∧
    refChain (refPad [0x53, 0x48, 0x41, 0x2D, 0x35, 0x31, 0x32, 0x2F, 0x32, 0x32, 0x34])
        ((initialHash .v512).map (· ^^^ 0xA5A5A5A5A5A5A5A5)) 1 = initialHash .v224 ∧
    refChain (refPad [0x53, 0x48, 0x41, 0x2D, 0x35, 0x31, 0x32, 0x2F, 0x32, 0x35, 0x36])
        ((initialHash .v512).map (· ^^^ 0xA5A5A5A5A5A5A5A5)) 1 = initialHash .v256

/-- R141, R142: exactly 224, 256, 384 and 512 select a variant, each its own, with output length v / 8. -/
def Obligations.LegalSelectorsAreFour : Prop :=
  (∀ (v : Nat) (x : Variant), variantOf v = some x ↔ v = variantBits x) ∧
    (∀ v : Nat, (variantOf v).isSome = true ↔ v = 224 ∨ v = 256 ∨ v = 384 ∨ v = 512) ∧
    (∀ x : Variant, 8 * variantBytes x = variantBits x) ∧
    ∀ x y : Variant, (initialHash x)[0] = (initialHash y)[0] → x = y

/-! ### What each command does when it completes, and everything it leaves unchanged -/

/-- R161: INIT v, in every state, with an error latched or not: a selector that is not 224, 256, 384 or 512 raises
InvalidVariantError (code 2) and selects nothing; any other loads VARIANT, OUTLEN and H, clears PLEN, NBLK, BIDX, TCNT, CACT and the
frame's fields, and changes nothing else. (A command started early is `EarlyStartKeepsOverruns`.) -/
def Obligations.InitChecksAndEffects : Prop :=
  ∀ s : State, s.begun = false →
    (∀ v : Nat, v ∉ ([224, 256, 384, 512] : List Nat) → exec (.init v) s = .next (s.restartFailed 2)) ∧
    ∀ x : Variant,
      exec (.init (variantBits x)) s = .next { s with
        variant := BitVec.ofNat 64 (variantBits x)
        outlen := BitVec.ofNat 64 (variantBits x / 8)
        h := initialHash x
        plen := 0, nblk := 0, bidx := 0, tcnt := 0
        status := { busy := false, done := false, cact := false, cmdovr := false, wrovr := false, errcode := 0 } }

/-- R162: PAD's checks in order, and its effects: 0x80, the zero bytes and BE_16(8L) in MSG[L..PLEN), PLEN, NBLK and BIDX; every byte
of MSG outside [L, PLEN) reads as before, and nothing else changes. -/
def Obligations.PadChecksAndEffects : Prop :=
  ∀ s : State, s.status.errcode = 0 →
    (s.variant = 0 → exec .pad s = .next (s.failed 6)) ∧
    (s.variant ≠ 0 → s.capacity.toNat < paddedLength s.mlen.toNat → exec .pad s = .next (s.failed 4)) ∧
    (s.variant ≠ 0 → paddedLength s.mlen.toNat ≤ s.capacity.toNat →
      ∃ m : Mem,
        exec .pad s = .next { s with
          msg := m
          plen := BitVec.ofNat 64 (paddedLength s.mlen.toNat)
          nblk := BitVec.ofNat 64 (paddedLength s.mlen.toNat / 128)
          bidx := 0, begun := false
          status := { s.status with busy := false, done := false } } ∧
        msgByte { s with msg := m } s.mlen.toNat = 0x80 ∧
        (∀ a : Nat, s.mlen.toNat < a → a < paddedLength s.mlen.toNat - 16 → msgByte { s with msg := m } a = 0x00) ∧
        (∀ k : Nat, k < 16 →
          msgByte { s with msg := m } (paddedLength s.mlen.toNat - 16 + k) =
            BitVec.ofNat 8 (8 * s.mlen.toNat / 256 ^ (15 - k))) ∧
        ∀ a : Nat, a < s.mlen.toNat ∨ paddedLength s.mlen.toNat ≤ a → msgByte { s with msg := m } a = msgByte s a)

/-- R162, corner case: PAD twice with the same MLEN leaves the state of the first PAD. -/
def Obligations.PadTwiceIsPad : Prop :=
  ∀ s : State, s.status.errcode = 0 → s.variant ≠ 0 → paddedLength s.mlen.toNat ≤ s.capacity.toNat → Mem.wf s.msg →
    ∃ t : State, exec .pad s = .next t ∧ exec .pad t = .next t

/-- R163: LOADBLK's checks in order, and its effects: BLK becomes block BIDX, byte 8j + k of it being byte k (0 the most significant)
of BLK[j] (R112), and nothing else changes. The block lies inside MSG (R55); else see `BlockOutsideMsgStops`. -/
def Obligations.LoadblkChecksAndEffects : Prop :=
  ∀ s : State, s.status.errcode = 0 →
    (s.variant = 0 → exec .loadblk s = .next (s.failed 6)) ∧
    (s.variant ≠ 0 → s.nblk.toNat ≤ s.bidx.toNat ∨ s.plen.toNat % 128 ≠ 0 → exec .loadblk s = .next (s.failed 1)) ∧
    (s.variant ≠ 0 → s.bidx.toNat < s.nblk.toNat → s.plen.toNat % 128 = 0 →
      128 * s.bidx.toNat + 128 ≤ s.capacity.toNat →
      ∃ b : Vector Word 16,
        exec .loadblk s = .next { s with
          blk := b, begun := false, status := { s.status with busy := false, done := false } } ∧
        ∀ (j k : Nat) (_ : j < 16), k < 8 →
          b[j].toNat / 256 ^ (7 - k) % 256 = (msgByte s (128 * s.bidx.toNat + 8 * j + k)).toNat)

/-- R164: SCHED raises SequenceError with VARIANT = 0 or CACT = 1; else it writes Schedule(BLK) into W and changes nothing else. -/
def Obligations.SchedChecksAndEffects : Prop :=
  ∀ s : State, s.status.errcode = 0 →
    (s.variant = 0 ∨ s.status.cact = true → exec .sched s = .next (s.failed 6)) ∧
    (s.variant ≠ 0 → s.status.cact = false →
      exec .sched s = .next { s with
        w := schedule s.blk, begun := false, status := { s.status with busy := false, done := false } })

/-- R165: CSTART raises SequenceError with VARIANT = 0 or CACT = 1; else it copies H into the working registers, clears TCNT, sets CACT
and changes nothing else. -/
def Obligations.CstartChecksAndEffects : Prop :=
  ∀ s : State, s.status.errcode = 0 →
    (s.variant = 0 ∨ s.status.cact = true → exec .cstart s = .next (s.failed 6)) ∧
    (s.variant ≠ 0 → s.status.cact = false →
      exec .cstart s = .next { s with
        wr := {
          a := s.h[0], b := s.h[1], c := s.h[2], d := s.h[3], e := s.h[4], f := s.h[5], g := s.h[6], h := s.h[7] }
        tcnt := 0, begun := false
        status := { s.status with busy := false, done := false, cact := true } })

/-- R130, R166: ROUND 1 runs round t = TCNT with W[t] and K[t], the eight assignments read the values before the round, and TCNT
advances. -/
def Obligations.RoundOneFollowsFormula : Prop :=
  ∀ (s : State) (t : Nat) (_ : t < 80), s.status.errcode = 0 → s.variant ≠ 0 → s.status.cact = true →
    s.tcnt.toNat = t →
    exec (.round 1) s = .next { s with
      wr := {
        a := (s.wr.h + bigSigma1 s.wr.e + ch s.wr.e s.wr.f s.wr.g + roundConstant t + s.w[t]) +
          (bigSigma0 s.wr.a + maj s.wr.a s.wr.b s.wr.c)
        b := s.wr.a, c := s.wr.b, d := s.wr.c
        e := s.wr.d + (s.wr.h + bigSigma1 s.wr.e + ch s.wr.e s.wr.f s.wr.g + roundConstant t + s.w[t])
        f := s.wr.e, g := s.wr.f, h := s.wr.g }
      tcnt := BitVec.ofNat 64 (t + 1), begun := false
      status := { s.status with busy := false, done := false } }

/-- R166: ROUND n raises SequenceError with VARIANT = 0, CACT = 0, n = 0 or TCNT + n > 80; else it runs rounds TCNT .. TCNT + n - 1 in
ascending order, each on the previous one's result, adds n to TCNT and changes nothing else. -/
def Obligations.RoundChecksAndEffects : Prop :=
  ∀ (n : Nat) (s : State), s.status.errcode = 0 →
    (s.variant = 0 ∨ s.status.cact = false ∨ n = 0 ∨ 80 < s.tcnt.toNat + n →
      exec (.round n) s = .next (s.failed 6)) ∧
    (s.variant ≠ 0 → s.status.cact = true → 1 ≤ n → s.tcnt.toNat + n ≤ 80 →
      exec (.round n) s = .next { s with
        wr := refRounds s.w s.tcnt.toNat n s.wr
        tcnt := BitVec.ofNat 64 (s.tcnt.toNat + n), begun := false
        status := { s.status with busy := false, done := false } })

/-- R167: CFINAL raises SequenceError with VARIANT = 0, CACT = 0 or TCNT ≠ 80; else it adds WR into H word by word modulo 2^64 and
clears CACT; TCNT stays 80, WR is unchanged, and so is everything else. -/
def Obligations.CfinalChecksAndEffects : Prop :=
  ∀ s : State, s.status.errcode = 0 →
    (s.variant = 0 ∨ s.status.cact = false ∨ s.tcnt ≠ 80 → exec .cfinal s = .next (s.failed 6)) ∧
    (s.variant ≠ 0 → s.status.cact = true → s.tcnt = 80 →
      exec .cfinal s = .next { s with
        h := #v[s.h[0] + s.wr.a, s.h[1] + s.wr.b, s.h[2] + s.wr.c, s.h[3] + s.wr.d,
          s.h[4] + s.wr.e, s.h[5] + s.wr.f, s.h[6] + s.wr.g, s.h[7] + s.wr.h]
        begun := false
        status := { s.status with busy := false, done := false, cact := false } })

/-- R168: COMPRESS raises SequenceError with VARIANT = 0 or CACT = 1; else it leaves WR as it is after rounds 0 to 79 from H, TCNT = 80
and H the old H plus that WR; nothing else changes. -/
def Obligations.CompressChecksAndEffects : Prop :=
  ∀ s : State, s.status.errcode = 0 →
    (s.variant = 0 ∨ s.status.cact = true → exec .compress s = .next (s.failed 6)) ∧
    (s.variant ≠ 0 → s.status.cact = false →
      ∃ r : WorkRegs, r = refRounds s.w 0 80 (workOfHash s.h) ∧
        exec .compress s = .next { s with
          wr := r, tcnt := 80
          h := #v[s.h[0] + r.a, s.h[1] + r.b, s.h[2] + r.c, s.h[3] + r.d,
            s.h[4] + r.e, s.h[5] + r.f, s.h[6] + r.g, s.h[7] + r.h]
          begun := false
          status := { s.status with busy := false, done := false } })

/-- R169: BLOCK's checks in order, and its effects: it loads block BIDX, expands it, compresses it into H and advances BIDX; TCNT is 80
and nothing else changes. The block lies inside MSG (R55); else see `BlockOutsideMsgStops`. -/
def Obligations.BlockChecksAndEffects : Prop :=
  ∀ s : State, s.status.errcode = 0 →
    (s.variant = 0 ∨ s.status.cact = true → exec .block s = .next (s.failed 6)) ∧
    (s.variant ≠ 0 → s.status.cact = false → s.nblk.toNat ≤ s.bidx.toNat → exec .block s = .next (s.failed 1)) ∧
    (s.variant ≠ 0 → s.status.cact = false → s.bidx.toNat < s.nblk.toNat →
      128 * s.bidx.toNat + 128 ≤ s.capacity.toNat →
      ∃ (b : Vector Word 16) (r : WorkRegs),
        b = bytesToWords (n := 16) (memRead s (128 * s.bidx.toNat) 128) ∧
        r = refRounds (schedule b) 0 80 (workOfHash s.h) ∧
        exec .block s = .next { s with
          blk := b, w := schedule b, wr := r, h := feedForward s.h r, tcnt := 80
          bidx := BitVec.ofNat 64 (s.bidx.toNat + 1), begun := false
          status := { s.status with busy := false, done := false } })

/-- The model's choice of assumption 6, after R55: LOADBLK and BLOCK stop by name where every check has passed and block BIDX still
reaches past MSG[MSG_BYTES). `InvariantStatesNeverStop` says that no state of the invariant does this. -/
def Obligations.BlockOutsideMsgStops : Prop :=
  ∀ s : State, s.status.errcode = 0 → s.variant ≠ 0 → s.bidx.toNat < s.nblk.toNat →
    s.capacity.toNat < 128 * s.bidx.toNat + 128 →
    (s.plen.toNat % 128 = 0 → exec .loadblk s = .fault .blockOutsideMsg) ∧
      (s.status.cact = false → exec .block s = .fault .blockOutsideMsg)

/-- R170: FINISH raises SequenceError with VARIANT = 0 or CACT = 1; else it writes the 64 big-endian bytes of H into DBUF, sets DONE,
and changes nothing else. -/
def Obligations.FinishChecksAndEffects : Prop :=
  ∀ s : State, s.status.errcode = 0 →
    (s.variant = 0 ∨ s.status.cact = true → exec .finish s = .next (s.failed 6)) ∧
    (s.variant ≠ 0 → s.status.cact = false →
      ∃ d : Vector Byte 64,
        exec .finish s = .next { s with
          dbuf := d, begun := false, status := { s.status with busy := false, done := true } } ∧
        ∀ (j : Nat) (_ : j < 64), d[j].toNat = s.h[j / 8].toNat / 256 ^ (7 - j % 8) % 256)

/-- R171: DIGEST v, in every state, with an error latched or not: an illegal selector raises InvalidVariantError and a message that
does not fit CapacityError, with nothing changed but the frame's fields; else the end state R171 lists, and everything it leaves
unchanged. (A command started early is `EarlyStartKeepsOverruns`.) -/
def Obligations.DigestChecksAndEffects : Prop :=
  ∀ s : State, s.begun = false →
    (∀ v : Nat, v ∉ ([224, 256, 384, 512] : List Nat) → exec (.digest v) s = .next (s.restartFailed 2)) ∧
    ∀ x : Variant,
      (s.capacity.toNat < paddedLength s.mlen.toNat →
        exec (.digest (variantBits x)) s = .next (s.restartFailed 4)) ∧
      (paddedLength s.mlen.toNat ≤ s.capacity.toNat →
        ∃ t : State, exec (.digest (variantBits x)) s = .next t ∧
          t.variant.toNat = variantBits x ∧ t.outlen.toNat = variantBits x / 8 ∧
          t.plen.toNat = paddedLength s.mlen.toNat ∧ t.nblk.toNat = paddedLength s.mlen.toNat / 128 ∧ t.bidx = t.nblk ∧
          t.tcnt = 80 ∧
          t.h = refHash (messageBytes s) x ∧
          t.blk = refBlock (refPad (messageBytes s)) (t.nblk.toNat - 1) ∧ t.w = schedule t.blk ∧
          t.wr = refRounds t.w 0 80
            (workOfHash (refChain (refPad (messageBytes s)) (initialHash x) (t.nblk.toNat - 1))) ∧
          t.dbuf = wordsToBytes (n := 8) t.h ∧
          t.status = {
            busy := false, done := true, cact := false
            cmdovr := false, wrovr := false, errcode := 0 } ∧
          (∀ a : Nat, a < s.mlen.toNat ∨ paddedLength s.mlen.toNat ≤ a → msgByte t a = msgByte s a) ∧
          (∀ a : Nat, a < paddedLength s.mlen.toNat → msgByte t a = (refPad (messageBytes s)).getD a 0) ∧
          t.mlen = s.mlen ∧ t.capacity = s.capacity ∧ t.pend = s.pend ∧ t.epoch = s.epoch ∧ t.draws = s.draws ∧
          t.begun = false ∧ t.turns = s.turns ∧ t.reply = s.reply)

/-! ### The digest -/

/-- R175: after a DIGEST v that raised no error, the host's byte reads of the DOUT window return the source's
Digest(MSG[0..MLEN), v), and 0 past its last byte. -/
def Obligations.DigestReadsBack : Prop :=
  ∀ (x : Variant) (s t : State), exec (.digest (variantBits x)) s = .next t → t.status.errcode = 0 →
    ∀ (j : Nat), j < 64 →
      (hostAccess (.read .bits8 (BitVec.ofNat 64 (0x1000 + j))) t).reply =
        some (.read (((refDigest (messageBytes s) x).getD j 0).setWidth 64) false)

/-- R154: the digest is a function of the message bytes and v alone. Two engines, whatever their registers, their history and the
rest of MSG, that hold the same message show the same digest. -/
def Obligations.DigestIsFunctionOfMessage : Prop :=
  ∀ (x : Variant) (s s' t t' : State), s.mlen = s'.mlen → (∀ a : Nat, a < s.mlen.toNat → msgByte s a = msgByte s' a) →
    exec (.digest (variantBits x)) s = .next t → exec (.digest (variantBits x)) s' = .next t' →
    t.status.errcode = 0 → t'.status.errcode = 0 →
    t.h = t'.h ∧ t.dbuf = t'.dbuf ∧ ∀ j : Fin 64, readDout j t = readDout j t'

/-- R172: ROUND a then ROUND b leave the state of ROUND (a + b), and CSTART, ROUND 80, CFINAL leave the state of COMPRESS. -/
def Obligations.RoundsAndCompressSplit : Prop :=
  (∀ (a b : Nat) (s : State), s.status.errcode = 0 → s.variant ≠ 0 → s.status.cact = true → 1 ≤ a → 1 ≤ b →
      s.tcnt.toNat + a + b ≤ 80 →
      ∃ t : State, execList [.round a, .round b] s = .next t ∧ exec (.round (a + b)) s = .next t) ∧
    ∀ s : State, s.status.errcode = 0 → s.variant ≠ 0 → s.status.cact = false →
      ∃ t : State, execList [.cstart, .round 80, .cfinal] s = .next t ∧ exec .compress s = .next t

/-- R173: BLOCK leaves the state of LOADBLK, SCHED, COMPRESS and a host write of BIDX + 1 to BIDX. -/
def Obligations.BlockSplits : Prop :=
  ∀ s : State, s.Inv → s.status.errcode = 0 → s.variant ≠ 0 → s.status.cact = false → s.bidx.toNat < s.nblk.toNat →
    ∃ t : State, execList [.loadblk, .sched, .compress] s = .next t ∧
      exec .block s = .next (writeReg .bidx (t.bidx + 1) t)

/-- R174: DIGEST v leaves the state of INIT v, PAD, BLOCK repeated NBLK times and FINISH where the message fits; where it does not,
DIGEST changes no VARIANT or H, while INIT v and the PAD that raises CapacityError leave VARIANT = v and H = IV_v. -/
def Obligations.DigestSplits : Prop :=
  ∀ (x : Variant) (s : State),
    (paddedLength s.mlen.toNat ≤ s.capacity.toNat →
      ∃ t : State, exec (.digest (variantBits x)) s = .next t ∧
        execList (.init (variantBits x) :: .pad ::
          (List.replicate (paddedLength s.mlen.toNat / 128) .block ++ [.finish])) s = .next t) ∧
    (s.capacity.toNat < paddedLength s.mlen.toNat →
      (∃ t : State, exec (.digest (variantBits x)) s = .next t ∧ t.variant = s.variant ∧ t.h = s.h ∧
        t.status.errcode = 4) ∧
      ∃ t : State, execList [.init (variantBits x), .pad] s = .next t ∧ t.variant.toNat = variantBits x ∧
        t.h = initialHash x ∧ t.status.errcode = 4)

/-! ### Errors -/

/-- R203: SequenceError is raised exactly in the cases of its table, by a command that passes the error gate. -/
def Obligations.SequenceErrorExactly : Prop :=
  ∀ (i : Instr) (s t : State), s.status.errcode = 0 ∨ clearsErrors i = true → exec i s = .next t →
    (t.status.errcode = 6 ↔ sequenceCause s i)

/-- R201: a legal command that passes the error gate leaves LengthError, InvalidVariantError or CapacityError exactly for the
causes the table gives, where the check before it passed (R209); it never leaves a code outside the table, nor code 3 or 5. -/
def Obligations.OtherErrorsExactly : Prop :=
  ∀ (i : Instr) (s t : State), s.status.errcode = 0 ∨ clearsErrors i = true → exec i s = .next t →
    (t.status.errcode = 1 ↔ ¬ sequenceCause s i ∧
      (i = .block ∧ s.nblk.toNat ≤ s.bidx.toNat ∨
        i = .loadblk ∧ (s.nblk.toNat ≤ s.bidx.toNat ∨ s.plen.toNat % 128 ≠ 0))) ∧
    (t.status.errcode = 2 ↔ ∃ v, (i = .init v ∨ i = .digest v) ∧ v ∉ ([224, 256, 384, 512] : List Nat)) ∧
    (t.status.errcode = 4 ↔ s.capacity.toNat < paddedLength s.mlen.toNat ∧
      (i = .pad ∧ ¬ sequenceCause s i ∨ ∃ v, i = .digest v ∧ v ∈ ([224, 256, 384, 512] : List Nat))) ∧
    t.status.errcode ∈ ([0, 1, 2, 4, 6] : List (BitVec 4))

/-- R207: errors are precise. A command that leaves an error latched has changed no state but ERRCODE, DONE, BUSY and, for INIT and
DIGEST, CMDOVR and WROVR (`begun` is the model's own mark). -/
def Obligations.ErrorsArePrecise : Prop :=
  ∀ (i : Instr) (s t : State), exec i s = .next t → t.status.errcode ≠ 0 →
    t = { s with
      begun := false
      status := { s.status with
        busy := false, done := t.status.done, errcode := t.status.errcode
        cmdovr := t.status.cmdovr, wrovr := t.status.wrovr } } ∧
    (clearsErrors i = false → t.status.cmdovr = s.status.cmdovr ∧ t.status.wrovr = s.status.wrovr) ∧
    (s.status.errcode = 0 → t.status.done = false)

/-- R205: with an error latched, a command whose OPC is neither INIT's nor DIGEST's, legal word or not, changes nothing but BUSY. -/
def Obligations.ErrorGateIgnores : Prop :=
  ∀ s : State, s.status.errcode ≠ 0 →
    (∀ i : Instr, clearsErrors i = false →
      exec i s = .next { s with begun := false, status := { s.status with busy := false } }) ∧
    (opcOf s.pend ≠ 0x01 → opcOf s.pend ≠ 0x0B →
      performPending s = .next { s with begun := false, status := { s.status with busy := false } })

/-- R208: only an INIT or a DIGEST that the engine performs, and a reset, clear a latched error; no host access, no other command and
no illegal word does. -/
def Obligations.OnlyRestartOrResetClearsError : Prop :=
  ∀ s t : State, step s = .next t → s.status.errcode ≠ 0 → t.status.errcode = 0 →
    s.turns.head? = some .reset ∨
      (s.turns.head? = some .engine ∨ s.turns = []) ∧ s.status.busy = true ∧
        ∃ v, decode s.pend = .ok (.init v) ∨ decode s.pend = .ok (.digest v)

/-- R250, R220: every command, ignored, failing or acting, ends with BUSY = 0, whatever word is pending; with BUSY = 0 the engine is
idle and keeps all state. That the engine moves where the list of moves is empty is the model's choice of assumption 4 (DESIGN
CHOICE), not a rule of the spec. -/
def Obligations.EngineMoveEndsBusyOrIdles : Prop :=
  ∀ s t : State, s.turns = [] ∨ s.turns.head? = some .engine → step s = .next t →
    t.status.busy = false ∧ (s.status.busy = false → t = { s with turns := s.turns.tail })

/-! ### Registers over every step -/

/-- R31: only INIT and DIGEST, with a legal argument, and a reset change VARIANT and OUTLEN; INIT and DIGEST set VARIANT to their
argument. -/
def Obligations.OnlyInitDigestChangeVariant : Prop :=
  ∀ s t : State, step s = .next t → (t.variant ≠ s.variant ∨ t.outlen ≠ s.outlen) →
    s.turns.head? = some .reset ∨
      (s.turns.head? = some .engine ∨ s.turns = []) ∧ s.status.busy = true ∧
        ∃ v, (decode s.pend = .ok (.init v) ∨ decode s.pend = .ok (.digest v)) ∧
          v ∈ ([224, 256, 384, 512] : List Nat) ∧ t.variant.toNat = v

/-- R33: only the host writes MLEN, with a 64-bit write at 0x020 while BUSY = 0; otherwise only a reset changes it. -/
def Obligations.OnlyHostChangesMlen : Prop :=
  ∀ s t : State, step s = .next t → t.mlen ≠ s.mlen →
    s.turns.head? = some .reset ∨
      s.status.busy = false ∧ s.turns.head? = some (.access (.write .bits64 0x020 t.mlen))

/-- R36: CAPACITY is a constant register holding MSG_BYTES: it does at reset, and no step changes it. -/
def Obligations.CapacityIsConstant : Prop :=
  State.reset.capacity.toNat = Config.msgBytes ∧ ∀ s t : State, step s = .next t → t.capacity = s.capacity

/-! ### The host's accesses -/

/-- R28: the register map. Each register is reached at its own offset, and no other offset reaches one. -/
def Obligations.RegisterMapIsExact : Prop :=
  (∀ r : Reg, regAt (regOffset r) = some r) ∧ ∀ (n : Nat) (r : Reg), regAt n = some r → n = regOffset r

/-- After R37 and R241: a CMD write with BUSY = 0 captures PEND and sets BUSY, and changes nothing else; with BUSY = 1 it is dropped and
sets CMDOVR. That the dropped write's reply is no BUSERR is the model's reading of assumption 16 (DEDUCED), which no rule states. -/
def Obligations.CommandWriteIsAccepted : Prop :=
  ∀ (s : State) (v : Word),
    (s.status.busy = false →
      hostAccess (.write .bits64 0x000 v) s =
        { s with
          pend := v, begun := false, status := { s.status with busy := true }, reply := some (.written false) }) ∧
    (s.status.busy = true →
      hostAccess (.write .bits64 0x000 v) s =
        { s with status := { s.status with cmdovr := true }, reply := some (.written false) })

/-- R29: with BUSY = 0, a write to a read-only register is ignored without a bus error, and a read of CMD returns 0. -/
def Obligations.ReadOnlyWritesIgnored : Prop :=
  ∀ (s : State) (r : Reg) (v : Word), s.status.busy = false →
    (r ∈ ([.status, .variant, .outlen, .plen, .nblk, .tcnt, .capacity] : List Reg) ∨
      (∃ i, r = .wr i) ∨ ∃ t, r = .w t) →
    hostAccess (.write .bits64 (BitVec.ofNat 64 (regOffset r)) v) s = { s with reply := some (.written false) } ∧
      hostAccess (.read .bits64 0x000) s = { s with reply := some (.read 0 false) }

/-- R62: with BUSY = 0, a register the host may write reads back what was written, and no other register and no byte of MSG
changes. -/
def Obligations.RegisterReadsBack : Prop :=
  ∀ (s : State) (r : Reg) (v : Word), s.status.busy = false →
    (r = .mlen ∨ r = .bidx ∨ (∃ i, r = .h i) ∨ ∃ i, r = .blk i) →
    ∀ t : State, t = hostAccess (.write .bits64 (BitVec.ofNat 64 (regOffset r)) v) s →
      t.reply = some (.written false) ∧
      (hostAccess (.read .bits64 (BitVec.ofNat 64 (regOffset r))) t).reply = some (.read v false) ∧
      (∀ q : Reg, q ≠ r → readReg q t = readReg q s) ∧
      t.msg = s.msg ∧ t.epoch = s.epoch ∧ t.dbuf = s.dbuf ∧ t.pend = s.pend

/-- R53: with BUSY = 0, RD8 at MSG_BASE + j returns MSG[j], and WR8 there stores the low 8 bits of its value in MSG[j], which RD8 then
returns; every other byte of MSG reads as before, and nothing else changes. -/
def Obligations.MsgReadAndWrite : Prop :=
  ∀ (s : State) (j : Nat) (v : Word), s.status.busy = false → j < s.capacity.toNat → s.capacity.toNat ≤ 2 ^ 48 →
    hostAccess (.read .bits8 (BitVec.ofNat 64 (0x10000 + j))) s =
        { s with reply := some (.read ((msgByte s j).setWidth 64) false) } ∧
      ∃ m : Mem, ∀ t : State, t = { s with msg := m, reply := some (.written false) } →
        hostAccess (.write .bits8 (BitVec.ofNat 64 (0x10000 + j)) v) s = t ∧
        (hostAccess (.read .bits8 (BitVec.ofNat 64 (0x10000 + j))) t).reply = some (.read (v &&& 0xFF) false) ∧
        ∀ a : Nat, a ≠ j → msgByte t a = msgByte s a

/-- R54: with BUSY = 0, RD8 at 0x1000 + j returns DBUF[j] if DONE = 1 and j < OUTLEN, else 0; a write there gets BUSERR and changes
nothing. -/
def Obligations.DoutWindowMasksDigest : Prop :=
  ∀ (s : State) (j : Nat) (_ : j < 64), s.status.busy = false →
    hostAccess (.read .bits8 (BitVec.ofNat 64 (0x1000 + j))) s =
      { s with reply := some (.read
          (if s.status.done = true ∧ j < s.outlen.toNat then s.dbuf[j].setWidth 64 else 0) false) } ∧
      ∀ (width : Width) (v : Word),
        hostAccess (.write width (BitVec.ofNat 64 (0x1000 + j)) v) s = { s with reply := some (.written true) }

/-- After R57, R58 and R241: an access whose form does not match its region gets BUSERR, with BUSY = 0 or 1: a read returns 0, a write
is dropped, and no engine state changes. That an illegal read with BUSY = 1 does so too, and takes no free draw, is the model's reading
of assumption 8 (DEDUCED), and that a 16-bit access exists and gets BUSERR that of assumption 10 (DEDUCED). -/
def Obligations.BusErrorChangesNothing : Prop :=
  ∀ (s : State) (width : Width) (offset v : Word),
    ¬ (width = .bits64 ∧ ∃ r, offset.toNat = regOffset r) →
    ¬ (width = .bits8 ∧ 0x10000 ≤ offset.toNat ∧ offset.toNat < 0x10000 + s.capacity.toNat) →
    hostAccess (.write width offset v) s = { s with reply := some (.written true) } ∧
      (¬ (width = .bits8 ∧ 0x1000 ≤ offset.toNat ∧ offset.toNat < 0x1040) →
        hostAccess (.read width offset) s = { s with reply := some (.read 0 true) })

/-- After R241: while BUSY = 1, a legal write changes nothing but one overrun bit: CMDOVR for CMD, WROVR for any other location. That
the dropped write's reply is no BUSERR is the model's reading of assumption 16 (DEDUCED), which no rule states. -/
def Obligations.BusyWritesAreDropped : Prop :=
  ∀ (s : State) (offset v : Word), s.status.busy = true →
    hostAccess (.write .bits64 0x000 v) s =
        { s with status := { s.status with cmdovr := true }, reply := some (.written false) } ∧
      (∀ r : Reg, r ≠ .cmd →
        hostAccess (.write .bits64 (BitVec.ofNat 64 (regOffset r)) v) s =
          { s with status := { s.status with wrovr := true }, reply := some (.written false) }) ∧
      (0x10000 ≤ offset.toNat → offset.toNat < 0x10000 + s.capacity.toNat →
        hostAccess (.write .bits8 offset v) s =
          { s with status := { s.status with wrovr := true }, reply := some (.written false) })

/-- After R67 and R242: while BUSY = 1, STATUS reads exactly in BUSY (1), CMDOVR and WROVR, and CAPACITY reads exactly; the other bits of
STATUS, and every other register, byte of DOUT and byte of MSG, are the next free draw, whatever its value. That CMD and the reserved
bits of STATUS are free too is the model's reading of assumption 7 (DEDUCED: R67 against R29 and R39), and that reads of STATUS and
CAPACITY also take a draw is its choice of assumption 3 (DESIGN CHOICE). -/
def Obligations.BusyReadsAreDraws : Prop :=
  ∀ s : State, s.status.busy = true →
    (∃ v : Word, hostAccess (.read .bits64 0x008) s =
        { s with reply := some (.read v false), draws := s.draws + 1 } ∧
      v.getLsbD 0 = true ∧ v.getLsbD 3 = s.status.cmdovr ∧ v.getLsbD 4 = s.status.wrovr ∧
      ∀ i : Nat, i ≠ 0 → i ≠ 3 → i ≠ 4 → v.getLsbD i = (Config.busyDraw s.draws).getLsbD i) ∧
    hostAccess (.read .bits64 0x048) s =
      { s with reply := some (.read s.capacity false), draws := s.draws + 1 } ∧
    (∀ r : Reg, r ≠ .status → r ≠ .capacity →
      hostAccess (.read .bits64 (BitVec.ofNat 64 (regOffset r))) s =
        { s with reply := some (.read (Config.busyDraw s.draws) false), draws := s.draws + 1 }) ∧
    ∀ offset : Word,
      0x1000 ≤ offset.toNat ∧ offset.toNat < 0x1040 ∨
        0x10000 ≤ offset.toNat ∧ offset.toNat < 0x10000 + s.capacity.toNat →
      hostAccess (.read .bits8 offset) s =
        { s with reply := some (.read (Config.busyDraw s.draws &&& 0xFF) false), draws := s.draws + 1 }

/-- R60: no read has a side effect: it changes only the model's own reply and draw count, and with BUSY = 0 a second read of the
location returns the same. -/
def Obligations.ReadsHaveNoSideEffect : Prop :=
  ∀ (s : State) (width : Width) (offset : Word),
    ∃ (r : Reply) (d : Nat), hostAccess (.read width offset) s = { s with reply := some r, draws := d } ∧
      (s.status.busy = false → d = s.draws ∧
        hostAccess (.read width offset) (hostAccess (.read width offset) s) = hostAccess (.read width offset) s)

/-- R39: the layout of STATUS. -/
def Obligations.StatusLayout : Prop :=
  ∀ st : Status, st.word.getLsbD 0 = st.busy ∧ st.word.getLsbD 1 = st.done ∧ st.word.getLsbD 2 = st.cact ∧
    st.word.getLsbD 3 = st.cmdovr ∧ st.word.getLsbD 4 = st.wrovr ∧ st.word.toNat / 2 ^ 8 % 2 ^ 4 = st.errcode.toNat ∧
    st.word.toNat / 2 ^ 5 % 2 ^ 3 = 0 ∧ st.word.toNat < 2 ^ 12

/-- R241, R249: a host access made while BUSY = 1 does not change what the pending command does: performing it after the access
gives the state that performing it before gives, but for CMDOVR, WROVR and the model's reply and draw count. -/
def Obligations.BusyAccessLeavesCommandAlone : Prop :=
  ∀ (s t : State) (a : Access), s.status.busy = true → performPending s = .next t →
    ∃ t' : State, performPending (hostAccess a s) = .next t' ∧
      t' = { t with
        status := { t.status with cmdovr := t'.status.cmdovr, wrovr := t'.status.wrovr }
        draws := (hostAccess a s).draws, reply := (hostAccess a s).reply }

/-- The model's choice of assumption 5, after the sentences of R43 and R241: when the engine has started INIT or DIGEST early, CMDOVR
and WROVR as they are at its completion (set again by writes dropped after the start) survive the command, legal word or not;
everything else is as without the early start. -/
def Obligations.EarlyStartKeepsOverruns : Prop :=
  ∀ s t : State, s.begun = true → opcOf s.pend = 0x01 ∨ opcOf s.pend = 0x0B →
    performPending { s with begun := false } = .next t →
    performPending s =
      .next { t with status := { t.status with cmdovr := s.status.cmdovr, wrovr := s.status.wrovr } }

/-! ### Reset, invariant, safety -/

/-- R48: the state after reset, with MSG unwritten so that each byte is the free draw of that reset (assumption 2). -/
def Obligations.ResetValues : Prop :=
  (∀ i : Fin 8, State.reset.h[i] = 0) ∧ State.reset.wr.toVector = State.reset.h ∧
    (∀ i : Fin 16, State.reset.blk[i] = 0) ∧ (∀ t : Fin 80, State.reset.w[t] = 0) ∧
    State.reset.variant = 0 ∧ State.reset.outlen = 0 ∧ State.reset.mlen = 0 ∧ State.reset.plen = 0 ∧
    State.reset.nblk = 0 ∧ State.reset.bidx = 0 ∧ State.reset.tcnt = 0 ∧
    State.reset.capacity.toNat = Config.msgBytes ∧ State.reset.status.word = 0 ∧ State.reset.pend = 0 ∧
    (∀ j : Fin 64, State.reset.dbuf[j] = 0) ∧ ∀ a : Nat, msgByte State.reset a = Config.msgDraw 0 a

/-- R230: a reset event, with BUSY 0 or 1, gives every state element its reset value and abandons the pending command; CAPACITY is a
constant, MSG is drawn anew, and the moves to come go on. -/
def Obligations.ResetEventRestoresReset : Prop :=
  ∀ (s : State) (rest : List Turn), s.turns = .reset :: rest →
    ∃ t : State, step s = .next t ∧
      t = { State.reset with
        capacity := s.capacity, epoch := s.epoch + 1, draws := s.draws, turns := rest } ∧
      ∀ a : Nat, msgByte t a = Config.msgDraw (s.epoch + 1) a

/-- The invariant (R49) holds at reset. -/
def Obligations.InvariantAtReset : Prop := State.reset.Inv

/-- Every step keeps the invariant (R49, R28, R201, R55): the variant stays legal, PLEN = 128 * NBLK fits MSG, TCNT stays at most 80, an
error and a digest are never shown together, and MSG keeps its canonical form and its bounds. -/
def Obligations.StepKeepsInvariant : Prop :=
  ∀ s t : State, s.Inv → step s = .next t → t.Inv

/-- From every state of the invariant the machine goes on: no step faults and none is refused (R55, R200). -/
def Obligations.InvariantStatesNeverStop : Prop :=
  ∀ s : State, s.Inv → SafeStep s

/-- From reset, whatever the host does and whenever resets and engine moves come, the machine never stops and every state it reaches
has the invariant (R49, R55). -/
def Obligations.EveryRunFromResetIsSafe : Prop :=
  ∀ (turns : List Turn) (k : Nat),
    ∃ t : State, Host.Core.run core k { State.reset with turns := turns } = .next t ∧ t.Inv
end

