-- ==== Sys2Proof/Laws/Memory.lean ====
section
/-! SUPPORT. The laws of the message buffer: a read after a write, what a write leaves alone, and that every operation keeps the
canonical form `Mem.wf`. -/

namespace Sys2Proof.Machine

/-! ### One byte -/

@[simp] theorem find_nil (off : Nat) : Mem.find [] off = none := rfl

/-- Reading one byte after storing one: the stored byte at its offset, elsewhere what was there. -/
theorem find_store (m : Mem) (off : Nat) (v : Byte) (a : Nat) :
    Mem.find (Mem.store m off v) a = if a = off then some v else Mem.find m a := by
  induction m with
  | nil => by_cases h : a = off <;> simp [Mem.store, Mem.find, h]
  | cons c rest ih =>
    obtain ⟨k, b⟩ := c
    by_cases hlt : off < k
    · by_cases ha : a = off
      · simp [Mem.store, Mem.find, hlt, ha]
      · simp [Mem.store, Mem.find, hlt, ha]
    · by_cases heq : off = k
      · by_cases ha : a = off
        · simp [Mem.store, Mem.find, heq, ha]
        · have : a ≠ k := fun h => ha (h.trans heq.symm)
          simp [Mem.store, Mem.find, heq, this]
      · by_cases hk : a = k
        · simp [Mem.store, Mem.find, hlt, heq, hk]
          intro h; exact absurd h.symm heq
        · simp [Mem.store, Mem.find, hlt, heq, hk, ih]

@[simp] theorem find_store_same (m : Mem) (off : Nat) (v : Byte) : Mem.find (Mem.store m off v) off = some v := by
  simp [find_store]

theorem find_store_other {m : Mem} {off a : Nat} {v : Byte} (h : a ≠ off) :
    Mem.find (Mem.store m off v) a = Mem.find m a := by
  simp [find_store, h]

/-- The pairs of a memory after a store are the stored one and old ones. -/
theorem mem_store {m : Mem} {off : Nat} {v : Byte} {c : Host.Cell} (h : c ∈ Mem.store m off v) :
    c = (off, v) ∨ c ∈ m := by
  induction m with
  | nil => simpa [Mem.store] using h
  | cons d rest ih =>
    obtain ⟨k, b⟩ := d
    simp only [Mem.store] at h
    split at h
    · simpa using h
    · split at h
      · rcases List.mem_cons.1 h with h | h
        · exact .inl h
        · exact .inr (List.mem_cons_of_mem _ h)
      · rcases List.mem_cons.1 h with h | h
        · exact .inr (h ▸ List.mem_cons_self)
        · exact (ih h).imp id (List.mem_cons_of_mem _)

/-- A store keeps the canonical form. -/
theorem store_wf {m : Mem} (h : Mem.wf m) (off : Nat) (v : Byte) : Mem.wf (Mem.store m off v) := by
  induction m with
  | nil => simp [Mem.store, Mem.wf]
  | cons d rest ih =>
    obtain ⟨k, b⟩ := d
    have hrest := (List.pairwise_cons.1 h).2
    have hk := (List.pairwise_cons.1 h).1
    simp only [Mem.store]
    split
    · rename_i hlt
      refine List.pairwise_cons.2 ⟨fun c hc => ?_, h⟩
      rcases List.mem_cons.1 hc with rfl | hc
      · exact hlt
      · exact Nat.lt_trans hlt (hk c hc)
    · split
      · rename_i heq
        exact List.pairwise_cons.2 ⟨fun c hc => heq ▸ hk c hc, hrest⟩
      · rename_i hlt hne
        refine List.pairwise_cons.2 ⟨fun c hc => ?_, ih hrest⟩
        rcases mem_store hc with rfl | hc
        · show k < off; omega
        · exact hk c hc

/-- A byte that is found stands in the list. -/
theorem mem_of_find {m : Mem} {off : Nat} {v : Byte} (h : Mem.find m off = some v) : (off, v) ∈ m := by
  induction m with
  | nil => simp at h
  | cons d rest ih =>
    obtain ⟨k, b⟩ := d
    by_cases hk : off = k
    · simp [Mem.find, hk] at h
      simp [hk, h]
    · simp [Mem.find, hk] at h
      exact List.mem_cons_of_mem _ (ih h)

/-- In the canonical form, storing the byte that is already written changes nothing. -/
theorem store_found {m : Mem} (h : Mem.wf m) {off : Nat} {v : Byte} (hf : Mem.find m off = some v) :
    Mem.store m off v = m := by
  induction m with
  | nil => simp at hf
  | cons d rest ih =>
    obtain ⟨k, b⟩ := d
    by_cases hk : off = k
    · simp [Mem.find, hk] at hf
      simp [Mem.store, hk, hf]
    · have hf' : Mem.find rest off = some v := by simpa [Mem.find, hk] using hf
      have hlt : k < off := (List.pairwise_cons.1 h).1 _ (mem_of_find hf')
      have hnlt : ¬ off < k := by omega
      simp [Mem.store, hk, hnlt, ih (List.pairwise_cons.1 h).2 hf']

/-! ### A run of bytes -/

/-- Reading one byte after MemWrite: byte a - off of the written sequence inside it, elsewhere what was there. -/
theorem find_storeBytes (m : Mem) (off : Nat) (bytes : List Byte) (a : Nat) :
    Mem.find (Mem.storeBytes m off bytes) a =
      if h : off ≤ a ∧ a < off + bytes.length then some (bytes[a - off]'(by omega)) else Mem.find m a := by
  induction bytes generalizing m off with
  | nil =>
    have : ¬ (off ≤ a ∧ a < off + ([] : List Byte).length) := by simp
    rw [Mem.storeBytes, dif_neg this]
  | cons b bytes ih =>
    rw [Mem.storeBytes, ih]
    by_cases h1 : off + 1 ≤ a ∧ a < off + 1 + bytes.length
    · have h2 : off ≤ a ∧ a < off + (b :: bytes).length := by simp only [List.length_cons]; omega
      rw [dif_pos h1, dif_pos h2]
      have : a - off = (a - (off + 1)) + 1 := by omega
      simp [this]
    · rw [dif_neg h1, find_store]
      by_cases h3 : a = off
      · have h2 : off ≤ a ∧ a < off + (b :: bytes).length := by simp only [List.length_cons]; omega
        rw [dif_pos h2, if_pos h3]
        simp [h3]
      · have h2 : ¬ (off ≤ a ∧ a < off + (b :: bytes).length) := by simp only [List.length_cons]; omega
        rw [dif_neg h2, if_neg h3]

theorem find_storeBytes_outside {m : Mem} {off a : Nat} {bytes : List Byte} (h : a < off ∨ off + bytes.length ≤ a) :
    Mem.find (Mem.storeBytes m off bytes) a = Mem.find m a := by
  rw [find_storeBytes, dif_neg (by omega)]

/-- MemWrite keeps the canonical form. -/
theorem storeBytes_wf {m : Mem} (h : Mem.wf m) (off : Nat) (bytes : List Byte) :
    Mem.wf (Mem.storeBytes m off bytes) := by
  induction bytes generalizing m off with
  | nil => exact h
  | cons b bytes ih => exact ih (store_wf h off b) (off + 1)

/-- The pairs of a memory after MemWrite are old ones or lie inside what was written. -/
theorem mem_storeBytes {m : Mem} {off : Nat} {bytes : List Byte} {c : Host.Cell}
    (h : c ∈ Mem.storeBytes m off bytes) : (off ≤ c.1 ∧ c.1 < off + bytes.length) ∨ c ∈ m := by
  induction bytes generalizing m off with
  | nil => exact .inr h
  | cons b bytes ih =>
    rcases ih h with h | h
    · exact .inl (by simp only [List.length_cons]; omega)
    · rcases mem_store h with rfl | h
      · exact .inl (by simp)
      · exact .inr h

/-! ### MSG -/

/-- What MSG[off] reads depends only on the byte written there and the reset it was drawn at. -/
theorem msgByte_eq (s : State) (off : Nat) : msgByte s off = (Mem.find s.msg off).getD (Config.msgDraw s.epoch off) := by
  unfold msgByte; cases Mem.find s.msg off <;> rfl

theorem msgByte_congr {s t : State} {off : Nat} (hm : Mem.find t.msg off = Mem.find s.msg off) (he : t.epoch = s.epoch) :
    msgByte t off = msgByte s off := by
  rw [msgByte_eq, msgByte_eq, hm, he]

theorem memRead_getElem (s : State) (off n j : Nat) (h : j < n) : (memRead s off n)[j] = msgByte s (off + j) := by
  simp [memRead]

end Sys2Proof.Machine
end

