-- ==== Sys2Proof/Laws/Codec.lean ====
section
/-! SUPPORT. The laws of the WordCodec and the Padder: the sizes of R105 to R107, the bytes of a word, and what padding leaves
in MSG. -/

namespace Sys2Proof.Machine

/-! ### Sizes -/

theorem paddedLength_mod (len : Nat) : paddedLength len % 128 = 0 := by unfold paddedLength; omega

theorem paddedLength_ge (len : Nat) : len + 17 ≤ paddedLength len := by unfold paddedLength; omega

theorem paddedLength_lt (len : Nat) : paddedLength len < len + 17 + 128 := by unfold paddedLength; omega

theorem paddedLength_div (len : Nat) : 128 * (paddedLength len / 128) = paddedLength len := by
  have := paddedLength_mod len; omega

theorem zeroCount_add (len : Nat) : len + 1 + zeroCount len + 16 = paddedLength len := by
  have := paddedLength_ge len; unfold zeroCount; omega

@[simp] theorem bigEndian_length (n v : Nat) : (bigEndian n v).length = n := by
  induction n with
  | zero => rfl
  | succ n ih => simp [bigEndian, ih]

/-- Byte k of BE_n(v). -/
theorem bigEndian_getElem (n v k : Nat) (h : k < n) :
    (bigEndian n v)[k]'(by simpa using h) = BitVec.ofNat 8 (v / 256 ^ (n - 1 - k)) := by
  induction n generalizing k with
  | zero => omega
  | succ n ih =>
    cases k with
    | zero => simp [bigEndian]
    | succ k =>
      have : n + 1 - 1 - (k + 1) = n - 1 - k := by omega
      simp only [bigEndian, List.getElem_cons_succ, this]
      exact ih k (by omega)

@[simp] theorem lengthField_length (len : Nat) : (lengthField len).length = 16 := by simp [lengthField]

/-! ### Bytes and words -/

theorem wordsToBytes_getElem {n : Nat} (words : Vector Word n) (j : Nat) (h : j < 8 * n) :
    (wordsToBytes words)[j] = byteOfWord (words[j / 8]'(by omega)) (j % 8) := by
  simp [wordsToBytes]

theorem bytesToWords_getElem {n : Nat} (bytes : Vector Byte (8 * n)) (i : Nat) (h : i < n) :
    (bytesToWords bytes)[i] =
      wordOfBytes bytes[8 * i] bytes[8 * i + 1] bytes[8 * i + 2] bytes[8 * i + 3]
        bytes[8 * i + 4] bytes[8 * i + 5] bytes[8 * i + 6] bytes[8 * i + 7] := by
  simp [bytesToWords]

/-- Joining one more byte below the bits of a word. -/
theorem joinByte_toNat (x : Word) (b : Byte) (k a : Nat) (hx : x.toNat = 2 ^ (k + 8) * a) (hk : k + 8 ≤ 64) :
    (x ||| b.setWidth 64 <<< k).toNat = 2 ^ k * (2 ^ 8 * a + b.toNat) := by
  have hb := b.isLt
  have hs : (b.setWidth 64 <<< k : Word).toNat = 2 ^ k * b.toNat := by
    rw [BitVec.toNat_shiftLeft, BitVec.toNat_setWidth, Nat.mod_eq_of_lt (show b.toNat < 2 ^ 64 by omega), Nat.shiftLeft_eq,
      Nat.mul_comm]
    apply Nat.mod_eq_of_lt
    calc 2 ^ k * b.toNat < 2 ^ k * 2 ^ 8 := by exact Nat.mul_lt_mul_of_pos_left hb (Nat.two_pow_pos k)
      _ = 2 ^ (k + 8) := by rw [Nat.pow_add]
      _ ≤ 2 ^ 64 := Nat.pow_le_pow_right (by omega) hk
  rw [BitVec.toNat_or, hx, hs, ← Nat.two_pow_add_eq_or_of_lt, Nat.pow_add, Nat.mul_add, Nat.mul_assoc]
  rw [Nat.pow_add]
  exact Nat.mul_lt_mul_of_pos_left hb (Nat.two_pow_pos k)

/-- The value of a word from its bytes, b0 the most significant (R100). -/
theorem wordOfBytes_toNat (b0 b1 b2 b3 b4 b5 b6 b7 : Byte) :
    (wordOfBytes b0 b1 b2 b3 b4 b5 b6 b7).toNat =
      b0.toNat * 2 ^ 56 + b1.toNat * 2 ^ 48 + b2.toNat * 2 ^ 40 + b3.toNat * 2 ^ 32 + b4.toNat * 2 ^ 24 +
        b5.toNat * 2 ^ 16 + b6.toNat * 2 ^ 8 + b7.toNat := by
  have h0 : (b0.setWidth 64 <<< 56 : Word).toNat = 2 ^ 56 * b0.toNat := by
    have := joinByte_toNat 0 b0 56 0 rfl (by omega); simpa using this
  have h1 := joinByte_toNat _ b1 48 _ h0 (by omega)
  have h2 := joinByte_toNat _ b2 40 _ h1 (by omega)
  have h3 := joinByte_toNat _ b3 32 _ h2 (by omega)
  have h4 := joinByte_toNat _ b4 24 _ h3 (by omega)
  have h5 := joinByte_toNat _ b5 16 _ h4 (by omega)
  have h6 := joinByte_toNat _ b6 8 _ h5 (by omega)
  have h7 := joinByte_toNat _ b7 0 _ h6 (by omega)
  rw [BitVec.shiftLeft_zero] at h7
  unfold wordOfBytes
  rw [h7]
  omega

/-- The value of byte k of a word, k = 0 the most significant (R101). -/
theorem byteOfWord_toNat (x : Word) (k : Nat) (hk : k < 8) :
    (byteOfWord x k).toNat = x.toNat / 256 ^ (7 - k) % 256 := by
  unfold byteOfWord
  rw [BitVec.extractLsb'_toNat, Nat.shiftRight_eq_div_pow]
  have : 56 - 8 * k = 8 * (7 - k) := by omega
  rw [this, Nat.pow_mul]

/-! ### Padding in place -/

/-- MSG after padding: 0x80 at `len`, zero bytes, the length field, and elsewhere what was there (R106, R107, R162). -/
theorem find_padMemory (m : Mem) (len a : Nat) :
    Mem.find (padMemory m len) a =
      if a = len then some 0x80
      else if len < a ∧ a < paddedLength len - 16 then some 0x00
      else if h : paddedLength len - 16 ≤ a ∧ a < paddedLength len then
        some ((lengthField len)[a - (paddedLength len - 16)]'(by simp; omega))
      else Mem.find m a := by
  have hz := zeroCount_add len
  unfold padMemory
  rw [find_storeBytes]
  by_cases h3 : paddedLength len - 16 ≤ a ∧ a < paddedLength len
  · have h3' : paddedLength len - 16 ≤ a ∧ a < paddedLength len - 16 + (lengthField len).length := by
      simp; omega
    rw [dif_pos h3', if_neg (by omega), if_neg (by omega), dif_pos h3]
  · have h3' : ¬ (paddedLength len - 16 ≤ a ∧ a < paddedLength len - 16 + (lengthField len).length) := by
      simp; omega
    rw [dif_neg h3', find_storeBytes]
    by_cases h2 : len < a ∧ a < paddedLength len - 16
    · have h2' : len + 1 ≤ a ∧ a < len + 1 + (List.replicate (zeroCount len) (0x00 : Byte)).length := by
        simp; omega
      rw [dif_pos h2', if_neg (by omega), if_pos h2]
      simp
    · have h2' : ¬ (len + 1 ≤ a ∧ a < len + 1 + (List.replicate (zeroCount len) (0x00 : Byte)).length) := by
        simp; omega
      rw [dif_neg h2', find_storeBytes]
      by_cases h1 : a = len
      · have h1' : len ≤ a ∧ a < len + ([0x80] : List Byte).length := by simp; omega
        rw [dif_pos h1', if_pos h1]
        simp [h1]
      · have h1' : ¬ (len ≤ a ∧ a < len + ([0x80] : List Byte).length) := by simp; omega
        rw [dif_neg h1', if_neg h1, if_neg h2, dif_neg h3]

theorem padMemory_wf {m : Mem} (h : Mem.wf m) (len : Nat) : Mem.wf (padMemory m len) := by
  unfold padMemory
  exact storeBytes_wf (storeBytes_wf (storeBytes_wf h _ _) _ _) _ _

/-- The pairs of MSG after padding are old ones or lie below the padded length. -/
theorem mem_padMemory {m : Mem} {len : Nat} {c : Host.Cell} (h : c ∈ padMemory m len) :
    c.1 < paddedLength len ∨ c ∈ m := by
  have hz := zeroCount_add len
  unfold padMemory at h
  rcases mem_storeBytes h with h | h
  · exact .inl (by simp only [lengthField_length] at h; omega)
  · rcases mem_storeBytes h with h | h
    · exact .inl (by simp only [List.length_replicate] at h; omega)
    · rcases mem_storeBytes h with h | h
      · exact .inl (by simp only [List.length_cons, List.length_nil] at h; omega)
      · exact .inr h

end Sys2Proof.Machine
end

