-- ==== Sys2Proof/Laws/State.lean ====
section
/-! SUPPORT. One lemma per field per named update of the state: what the field holds after it. Every one is true by rfl and is a
simp lemma, so that no proof unfolds a record update. -/

namespace Sys2Proof.Machine

/-! ### endCommand -/

@[simp] theorem endCommand_h (s : State) : (endCommand s).h = s.h := rfl
@[simp] theorem endCommand_wr (s : State) : (endCommand s).wr = s.wr := rfl
@[simp] theorem endCommand_blk (s : State) : (endCommand s).blk = s.blk := rfl
@[simp] theorem endCommand_w (s : State) : (endCommand s).w = s.w := rfl
@[simp] theorem endCommand_variant (s : State) : (endCommand s).variant = s.variant := rfl
@[simp] theorem endCommand_outlen (s : State) : (endCommand s).outlen = s.outlen := rfl
@[simp] theorem endCommand_mlen (s : State) : (endCommand s).mlen = s.mlen := rfl
@[simp] theorem endCommand_plen (s : State) : (endCommand s).plen = s.plen := rfl
@[simp] theorem endCommand_nblk (s : State) : (endCommand s).nblk = s.nblk := rfl
@[simp] theorem endCommand_bidx (s : State) : (endCommand s).bidx = s.bidx := rfl
@[simp] theorem endCommand_tcnt (s : State) : (endCommand s).tcnt = s.tcnt := rfl
@[simp] theorem endCommand_capacity (s : State) : (endCommand s).capacity = s.capacity := rfl
@[simp] theorem endCommand_status (s : State) : (endCommand s).status = { s.status with busy := false } := rfl
@[simp] theorem endCommand_dbuf (s : State) : (endCommand s).dbuf = s.dbuf := rfl
@[simp] theorem endCommand_pend (s : State) : (endCommand s).pend = s.pend := rfl
@[simp] theorem endCommand_msg (s : State) : (endCommand s).msg = s.msg := rfl
@[simp] theorem endCommand_epoch (s : State) : (endCommand s).epoch = s.epoch := rfl
@[simp] theorem endCommand_draws (s : State) : (endCommand s).draws = s.draws := rfl
@[simp] theorem endCommand_begun (s : State) : (endCommand s).begun = false := rfl
@[simp] theorem endCommand_turns (s : State) : (endCommand s).turns = s.turns := rfl
@[simp] theorem endCommand_reply (s : State) : (endCommand s).reply = s.reply := rfl

/-! ### raiseError -/

@[simp] theorem raiseError_h (e : ErrorName) (s : State) : (raiseError e s).h = s.h := rfl
@[simp] theorem raiseError_wr (e : ErrorName) (s : State) : (raiseError e s).wr = s.wr := rfl
@[simp] theorem raiseError_blk (e : ErrorName) (s : State) : (raiseError e s).blk = s.blk := rfl
@[simp] theorem raiseError_w (e : ErrorName) (s : State) : (raiseError e s).w = s.w := rfl
@[simp] theorem raiseError_variant (e : ErrorName) (s : State) : (raiseError e s).variant = s.variant := rfl
@[simp] theorem raiseError_outlen (e : ErrorName) (s : State) : (raiseError e s).outlen = s.outlen := rfl
@[simp] theorem raiseError_mlen (e : ErrorName) (s : State) : (raiseError e s).mlen = s.mlen := rfl
@[simp] theorem raiseError_plen (e : ErrorName) (s : State) : (raiseError e s).plen = s.plen := rfl
@[simp] theorem raiseError_nblk (e : ErrorName) (s : State) : (raiseError e s).nblk = s.nblk := rfl
@[simp] theorem raiseError_bidx (e : ErrorName) (s : State) : (raiseError e s).bidx = s.bidx := rfl
@[simp] theorem raiseError_tcnt (e : ErrorName) (s : State) : (raiseError e s).tcnt = s.tcnt := rfl
@[simp] theorem raiseError_capacity (e : ErrorName) (s : State) : (raiseError e s).capacity = s.capacity := rfl
@[simp] theorem raiseError_status (e : ErrorName) (s : State) : (raiseError e s).status = { s.status with errcode := errorCode e, done := false } := rfl
@[simp] theorem raiseError_dbuf (e : ErrorName) (s : State) : (raiseError e s).dbuf = s.dbuf := rfl
@[simp] theorem raiseError_pend (e : ErrorName) (s : State) : (raiseError e s).pend = s.pend := rfl
@[simp] theorem raiseError_msg (e : ErrorName) (s : State) : (raiseError e s).msg = s.msg := rfl
@[simp] theorem raiseError_epoch (e : ErrorName) (s : State) : (raiseError e s).epoch = s.epoch := rfl
@[simp] theorem raiseError_draws (e : ErrorName) (s : State) : (raiseError e s).draws = s.draws := rfl
@[simp] theorem raiseError_begun (e : ErrorName) (s : State) : (raiseError e s).begun = s.begun := rfl
@[simp] theorem raiseError_turns (e : ErrorName) (s : State) : (raiseError e s).turns = s.turns := rfl
@[simp] theorem raiseError_reply (e : ErrorName) (s : State) : (raiseError e s).reply = s.reply := rfl

/-! ### clearError -/

@[simp] theorem clearError_h (s : State) : (clearError s).h = s.h := rfl
@[simp] theorem clearError_wr (s : State) : (clearError s).wr = s.wr := rfl
@[simp] theorem clearError_blk (s : State) : (clearError s).blk = s.blk := rfl
@[simp] theorem clearError_w (s : State) : (clearError s).w = s.w := rfl
@[simp] theorem clearError_variant (s : State) : (clearError s).variant = s.variant := rfl
@[simp] theorem clearError_outlen (s : State) : (clearError s).outlen = s.outlen := rfl
@[simp] theorem clearError_mlen (s : State) : (clearError s).mlen = s.mlen := rfl
@[simp] theorem clearError_plen (s : State) : (clearError s).plen = s.plen := rfl
@[simp] theorem clearError_nblk (s : State) : (clearError s).nblk = s.nblk := rfl
@[simp] theorem clearError_bidx (s : State) : (clearError s).bidx = s.bidx := rfl
@[simp] theorem clearError_tcnt (s : State) : (clearError s).tcnt = s.tcnt := rfl
@[simp] theorem clearError_capacity (s : State) : (clearError s).capacity = s.capacity := rfl
@[simp] theorem clearError_status (s : State) : (clearError s).status = { s.status with errcode := 0 } := rfl
@[simp] theorem clearError_dbuf (s : State) : (clearError s).dbuf = s.dbuf := rfl
@[simp] theorem clearError_pend (s : State) : (clearError s).pend = s.pend := rfl
@[simp] theorem clearError_msg (s : State) : (clearError s).msg = s.msg := rfl
@[simp] theorem clearError_epoch (s : State) : (clearError s).epoch = s.epoch := rfl
@[simp] theorem clearError_draws (s : State) : (clearError s).draws = s.draws := rfl
@[simp] theorem clearError_begun (s : State) : (clearError s).begun = s.begun := rfl
@[simp] theorem clearError_turns (s : State) : (clearError s).turns = s.turns := rfl
@[simp] theorem clearError_reply (s : State) : (clearError s).reply = s.reply := rfl

/-! ### acceptCommand -/

@[simp] theorem acceptCommand_h (v : Word) (s : State) : (acceptCommand v s).h = s.h := rfl
@[simp] theorem acceptCommand_wr (v : Word) (s : State) : (acceptCommand v s).wr = s.wr := rfl
@[simp] theorem acceptCommand_blk (v : Word) (s : State) : (acceptCommand v s).blk = s.blk := rfl
@[simp] theorem acceptCommand_w (v : Word) (s : State) : (acceptCommand v s).w = s.w := rfl
@[simp] theorem acceptCommand_variant (v : Word) (s : State) : (acceptCommand v s).variant = s.variant := rfl
@[simp] theorem acceptCommand_outlen (v : Word) (s : State) : (acceptCommand v s).outlen = s.outlen := rfl
@[simp] theorem acceptCommand_mlen (v : Word) (s : State) : (acceptCommand v s).mlen = s.mlen := rfl
@[simp] theorem acceptCommand_plen (v : Word) (s : State) : (acceptCommand v s).plen = s.plen := rfl
@[simp] theorem acceptCommand_nblk (v : Word) (s : State) : (acceptCommand v s).nblk = s.nblk := rfl
@[simp] theorem acceptCommand_bidx (v : Word) (s : State) : (acceptCommand v s).bidx = s.bidx := rfl
@[simp] theorem acceptCommand_tcnt (v : Word) (s : State) : (acceptCommand v s).tcnt = s.tcnt := rfl
@[simp] theorem acceptCommand_capacity (v : Word) (s : State) : (acceptCommand v s).capacity = s.capacity := rfl
@[simp] theorem acceptCommand_status (v : Word) (s : State) : (acceptCommand v s).status = { s.status with busy := true } := rfl
@[simp] theorem acceptCommand_dbuf (v : Word) (s : State) : (acceptCommand v s).dbuf = s.dbuf := rfl
@[simp] theorem acceptCommand_pend (v : Word) (s : State) : (acceptCommand v s).pend = v := rfl
@[simp] theorem acceptCommand_msg (v : Word) (s : State) : (acceptCommand v s).msg = s.msg := rfl
@[simp] theorem acceptCommand_epoch (v : Word) (s : State) : (acceptCommand v s).epoch = s.epoch := rfl
@[simp] theorem acceptCommand_draws (v : Word) (s : State) : (acceptCommand v s).draws = s.draws := rfl
@[simp] theorem acceptCommand_begun (v : Word) (s : State) : (acceptCommand v s).begun = false := rfl
@[simp] theorem acceptCommand_turns (v : Word) (s : State) : (acceptCommand v s).turns = s.turns := rfl
@[simp] theorem acceptCommand_reply (v : Word) (s : State) : (acceptCommand v s).reply = s.reply := rfl

/-! ### loadVariant -/

@[simp] theorem loadVariant_h (x : Variant) (s : State) : (loadVariant x s).h = initialHash x := rfl
@[simp] theorem loadVariant_wr (x : Variant) (s : State) : (loadVariant x s).wr = s.wr := rfl
@[simp] theorem loadVariant_blk (x : Variant) (s : State) : (loadVariant x s).blk = s.blk := rfl
@[simp] theorem loadVariant_w (x : Variant) (s : State) : (loadVariant x s).w = s.w := rfl
@[simp] theorem loadVariant_variant (x : Variant) (s : State) : (loadVariant x s).variant = BitVec.ofNat 64 (variantBits x) := rfl
@[simp] theorem loadVariant_outlen (x : Variant) (s : State) : (loadVariant x s).outlen = BitVec.ofNat 64 (variantBytes x) := rfl
@[simp] theorem loadVariant_mlen (x : Variant) (s : State) : (loadVariant x s).mlen = s.mlen := rfl
@[simp] theorem loadVariant_plen (x : Variant) (s : State) : (loadVariant x s).plen = 0 := rfl
@[simp] theorem loadVariant_nblk (x : Variant) (s : State) : (loadVariant x s).nblk = 0 := rfl
@[simp] theorem loadVariant_bidx (x : Variant) (s : State) : (loadVariant x s).bidx = 0 := rfl
@[simp] theorem loadVariant_tcnt (x : Variant) (s : State) : (loadVariant x s).tcnt = 0 := rfl
@[simp] theorem loadVariant_capacity (x : Variant) (s : State) : (loadVariant x s).capacity = s.capacity := rfl
@[simp] theorem loadVariant_status (x : Variant) (s : State) : (loadVariant x s).status = { s.status with cact := false } := rfl
@[simp] theorem loadVariant_dbuf (x : Variant) (s : State) : (loadVariant x s).dbuf = s.dbuf := rfl
@[simp] theorem loadVariant_pend (x : Variant) (s : State) : (loadVariant x s).pend = s.pend := rfl
@[simp] theorem loadVariant_msg (x : Variant) (s : State) : (loadVariant x s).msg = s.msg := rfl
@[simp] theorem loadVariant_epoch (x : Variant) (s : State) : (loadVariant x s).epoch = s.epoch := rfl
@[simp] theorem loadVariant_draws (x : Variant) (s : State) : (loadVariant x s).draws = s.draws := rfl
@[simp] theorem loadVariant_begun (x : Variant) (s : State) : (loadVariant x s).begun = s.begun := rfl
@[simp] theorem loadVariant_turns (x : Variant) (s : State) : (loadVariant x s).turns = s.turns := rfl
@[simp] theorem loadVariant_reply (x : Variant) (s : State) : (loadVariant x s).reply = s.reply := rfl

/-! ### padMessage -/

@[simp] theorem padMessage_h (s : State) : (padMessage s).h = s.h := rfl
@[simp] theorem padMessage_wr (s : State) : (padMessage s).wr = s.wr := rfl
@[simp] theorem padMessage_blk (s : State) : (padMessage s).blk = s.blk := rfl
@[simp] theorem padMessage_w (s : State) : (padMessage s).w = s.w := rfl
@[simp] theorem padMessage_variant (s : State) : (padMessage s).variant = s.variant := rfl
@[simp] theorem padMessage_outlen (s : State) : (padMessage s).outlen = s.outlen := rfl
@[simp] theorem padMessage_mlen (s : State) : (padMessage s).mlen = s.mlen := rfl
@[simp] theorem padMessage_plen (s : State) : (padMessage s).plen = BitVec.ofNat 64 (paddedLength s.mlen.toNat) := rfl
@[simp] theorem padMessage_nblk (s : State) : (padMessage s).nblk = BitVec.ofNat 64 (paddedLength s.mlen.toNat / 128) := rfl
@[simp] theorem padMessage_bidx (s : State) : (padMessage s).bidx = 0 := rfl
@[simp] theorem padMessage_tcnt (s : State) : (padMessage s).tcnt = s.tcnt := rfl
@[simp] theorem padMessage_capacity (s : State) : (padMessage s).capacity = s.capacity := rfl
@[simp] theorem padMessage_status (s : State) : (padMessage s).status = s.status := rfl
@[simp] theorem padMessage_dbuf (s : State) : (padMessage s).dbuf = s.dbuf := rfl
@[simp] theorem padMessage_pend (s : State) : (padMessage s).pend = s.pend := rfl
@[simp] theorem padMessage_msg (s : State) : (padMessage s).msg = padMemory s.msg s.mlen.toNat := rfl
@[simp] theorem padMessage_epoch (s : State) : (padMessage s).epoch = s.epoch := rfl
@[simp] theorem padMessage_draws (s : State) : (padMessage s).draws = s.draws := rfl
@[simp] theorem padMessage_begun (s : State) : (padMessage s).begun = s.begun := rfl
@[simp] theorem padMessage_turns (s : State) : (padMessage s).turns = s.turns := rfl
@[simp] theorem padMessage_reply (s : State) : (padMessage s).reply = s.reply := rfl

/-! ### loadBlock -/

@[simp] theorem loadBlock_h (s : State) : (loadBlock s).h = s.h := rfl
@[simp] theorem loadBlock_wr (s : State) : (loadBlock s).wr = s.wr := rfl
@[simp] theorem loadBlock_blk (s : State) : (loadBlock s).blk = blockWords s s.bidx.toNat := rfl
@[simp] theorem loadBlock_w (s : State) : (loadBlock s).w = s.w := rfl
@[simp] theorem loadBlock_variant (s : State) : (loadBlock s).variant = s.variant := rfl
@[simp] theorem loadBlock_outlen (s : State) : (loadBlock s).outlen = s.outlen := rfl
@[simp] theorem loadBlock_mlen (s : State) : (loadBlock s).mlen = s.mlen := rfl
@[simp] theorem loadBlock_plen (s : State) : (loadBlock s).plen = s.plen := rfl
@[simp] theorem loadBlock_nblk (s : State) : (loadBlock s).nblk = s.nblk := rfl
@[simp] theorem loadBlock_bidx (s : State) : (loadBlock s).bidx = s.bidx := rfl
@[simp] theorem loadBlock_tcnt (s : State) : (loadBlock s).tcnt = s.tcnt := rfl
@[simp] theorem loadBlock_capacity (s : State) : (loadBlock s).capacity = s.capacity := rfl
@[simp] theorem loadBlock_status (s : State) : (loadBlock s).status = s.status := rfl
@[simp] theorem loadBlock_dbuf (s : State) : (loadBlock s).dbuf = s.dbuf := rfl
@[simp] theorem loadBlock_pend (s : State) : (loadBlock s).pend = s.pend := rfl
@[simp] theorem loadBlock_msg (s : State) : (loadBlock s).msg = s.msg := rfl
@[simp] theorem loadBlock_epoch (s : State) : (loadBlock s).epoch = s.epoch := rfl
@[simp] theorem loadBlock_draws (s : State) : (loadBlock s).draws = s.draws := rfl
@[simp] theorem loadBlock_begun (s : State) : (loadBlock s).begun = s.begun := rfl
@[simp] theorem loadBlock_turns (s : State) : (loadBlock s).turns = s.turns := rfl
@[simp] theorem loadBlock_reply (s : State) : (loadBlock s).reply = s.reply := rfl

/-! ### expandBlock -/

@[simp] theorem expandBlock_h (s : State) : (expandBlock s).h = s.h := rfl
@[simp] theorem expandBlock_wr (s : State) : (expandBlock s).wr = s.wr := rfl
@[simp] theorem expandBlock_blk (s : State) : (expandBlock s).blk = s.blk := rfl
@[simp] theorem expandBlock_w (s : State) : (expandBlock s).w = schedule s.blk := rfl
@[simp] theorem expandBlock_variant (s : State) : (expandBlock s).variant = s.variant := rfl
@[simp] theorem expandBlock_outlen (s : State) : (expandBlock s).outlen = s.outlen := rfl
@[simp] theorem expandBlock_mlen (s : State) : (expandBlock s).mlen = s.mlen := rfl
@[simp] theorem expandBlock_plen (s : State) : (expandBlock s).plen = s.plen := rfl
@[simp] theorem expandBlock_nblk (s : State) : (expandBlock s).nblk = s.nblk := rfl
@[simp] theorem expandBlock_bidx (s : State) : (expandBlock s).bidx = s.bidx := rfl
@[simp] theorem expandBlock_tcnt (s : State) : (expandBlock s).tcnt = s.tcnt := rfl
@[simp] theorem expandBlock_capacity (s : State) : (expandBlock s).capacity = s.capacity := rfl
@[simp] theorem expandBlock_status (s : State) : (expandBlock s).status = s.status := rfl
@[simp] theorem expandBlock_dbuf (s : State) : (expandBlock s).dbuf = s.dbuf := rfl
@[simp] theorem expandBlock_pend (s : State) : (expandBlock s).pend = s.pend := rfl
@[simp] theorem expandBlock_msg (s : State) : (expandBlock s).msg = s.msg := rfl
@[simp] theorem expandBlock_epoch (s : State) : (expandBlock s).epoch = s.epoch := rfl
@[simp] theorem expandBlock_draws (s : State) : (expandBlock s).draws = s.draws := rfl
@[simp] theorem expandBlock_begun (s : State) : (expandBlock s).begun = s.begun := rfl
@[simp] theorem expandBlock_turns (s : State) : (expandBlock s).turns = s.turns := rfl
@[simp] theorem expandBlock_reply (s : State) : (expandBlock s).reply = s.reply := rfl

/-! ### startCompression -/

@[simp] theorem startCompression_h (s : State) : (startCompression s).h = s.h := rfl
@[simp] theorem startCompression_wr (s : State) : (startCompression s).wr = workOfHash s.h := rfl
@[simp] theorem startCompression_blk (s : State) : (startCompression s).blk = s.blk := rfl
@[simp] theorem startCompression_w (s : State) : (startCompression s).w = s.w := rfl
@[simp] theorem startCompression_variant (s : State) : (startCompression s).variant = s.variant := rfl
@[simp] theorem startCompression_outlen (s : State) : (startCompression s).outlen = s.outlen := rfl
@[simp] theorem startCompression_mlen (s : State) : (startCompression s).mlen = s.mlen := rfl
@[simp] theorem startCompression_plen (s : State) : (startCompression s).plen = s.plen := rfl
@[simp] theorem startCompression_nblk (s : State) : (startCompression s).nblk = s.nblk := rfl
@[simp] theorem startCompression_bidx (s : State) : (startCompression s).bidx = s.bidx := rfl
@[simp] theorem startCompression_tcnt (s : State) : (startCompression s).tcnt = 0 := rfl
@[simp] theorem startCompression_capacity (s : State) : (startCompression s).capacity = s.capacity := rfl
@[simp] theorem startCompression_status (s : State) : (startCompression s).status = { s.status with cact := true } := rfl
@[simp] theorem startCompression_dbuf (s : State) : (startCompression s).dbuf = s.dbuf := rfl
@[simp] theorem startCompression_pend (s : State) : (startCompression s).pend = s.pend := rfl
@[simp] theorem startCompression_msg (s : State) : (startCompression s).msg = s.msg := rfl
@[simp] theorem startCompression_epoch (s : State) : (startCompression s).epoch = s.epoch := rfl
@[simp] theorem startCompression_draws (s : State) : (startCompression s).draws = s.draws := rfl
@[simp] theorem startCompression_begun (s : State) : (startCompression s).begun = s.begun := rfl
@[simp] theorem startCompression_turns (s : State) : (startCompression s).turns = s.turns := rfl
@[simp] theorem startCompression_reply (s : State) : (startCompression s).reply = s.reply := rfl

/-! ### advanceRounds -/

@[simp] theorem advanceRounds_h (n : Nat) (s : State) : (advanceRounds n s).h = s.h := rfl
@[simp] theorem advanceRounds_wr (n : Nat) (s : State) : (advanceRounds n s).wr = runRounds s.w n s.tcnt.toNat s.wr := rfl
@[simp] theorem advanceRounds_blk (n : Nat) (s : State) : (advanceRounds n s).blk = s.blk := rfl
@[simp] theorem advanceRounds_w (n : Nat) (s : State) : (advanceRounds n s).w = s.w := rfl
@[simp] theorem advanceRounds_variant (n : Nat) (s : State) : (advanceRounds n s).variant = s.variant := rfl
@[simp] theorem advanceRounds_outlen (n : Nat) (s : State) : (advanceRounds n s).outlen = s.outlen := rfl
@[simp] theorem advanceRounds_mlen (n : Nat) (s : State) : (advanceRounds n s).mlen = s.mlen := rfl
@[simp] theorem advanceRounds_plen (n : Nat) (s : State) : (advanceRounds n s).plen = s.plen := rfl
@[simp] theorem advanceRounds_nblk (n : Nat) (s : State) : (advanceRounds n s).nblk = s.nblk := rfl
@[simp] theorem advanceRounds_bidx (n : Nat) (s : State) : (advanceRounds n s).bidx = s.bidx := rfl
@[simp] theorem advanceRounds_tcnt (n : Nat) (s : State) : (advanceRounds n s).tcnt = BitVec.ofNat 64 (s.tcnt.toNat + n) := rfl
@[simp] theorem advanceRounds_capacity (n : Nat) (s : State) : (advanceRounds n s).capacity = s.capacity := rfl
@[simp] theorem advanceRounds_status (n : Nat) (s : State) : (advanceRounds n s).status = s.status := rfl
@[simp] theorem advanceRounds_dbuf (n : Nat) (s : State) : (advanceRounds n s).dbuf = s.dbuf := rfl
@[simp] theorem advanceRounds_pend (n : Nat) (s : State) : (advanceRounds n s).pend = s.pend := rfl
@[simp] theorem advanceRounds_msg (n : Nat) (s : State) : (advanceRounds n s).msg = s.msg := rfl
@[simp] theorem advanceRounds_epoch (n : Nat) (s : State) : (advanceRounds n s).epoch = s.epoch := rfl
@[simp] theorem advanceRounds_draws (n : Nat) (s : State) : (advanceRounds n s).draws = s.draws := rfl
@[simp] theorem advanceRounds_begun (n : Nat) (s : State) : (advanceRounds n s).begun = s.begun := rfl
@[simp] theorem advanceRounds_turns (n : Nat) (s : State) : (advanceRounds n s).turns = s.turns := rfl
@[simp] theorem advanceRounds_reply (n : Nat) (s : State) : (advanceRounds n s).reply = s.reply := rfl

/-! ### finishCompression -/

@[simp] theorem finishCompression_h (s : State) : (finishCompression s).h = feedForward s.h s.wr := rfl
@[simp] theorem finishCompression_wr (s : State) : (finishCompression s).wr = s.wr := rfl
@[simp] theorem finishCompression_blk (s : State) : (finishCompression s).blk = s.blk := rfl
@[simp] theorem finishCompression_w (s : State) : (finishCompression s).w = s.w := rfl
@[simp] theorem finishCompression_variant (s : State) : (finishCompression s).variant = s.variant := rfl
@[simp] theorem finishCompression_outlen (s : State) : (finishCompression s).outlen = s.outlen := rfl
@[simp] theorem finishCompression_mlen (s : State) : (finishCompression s).mlen = s.mlen := rfl
@[simp] theorem finishCompression_plen (s : State) : (finishCompression s).plen = s.plen := rfl
@[simp] theorem finishCompression_nblk (s : State) : (finishCompression s).nblk = s.nblk := rfl
@[simp] theorem finishCompression_bidx (s : State) : (finishCompression s).bidx = s.bidx := rfl
@[simp] theorem finishCompression_tcnt (s : State) : (finishCompression s).tcnt = s.tcnt := rfl
@[simp] theorem finishCompression_capacity (s : State) : (finishCompression s).capacity = s.capacity := rfl
@[simp] theorem finishCompression_status (s : State) : (finishCompression s).status = { s.status with cact := false } := rfl
@[simp] theorem finishCompression_dbuf (s : State) : (finishCompression s).dbuf = s.dbuf := rfl
@[simp] theorem finishCompression_pend (s : State) : (finishCompression s).pend = s.pend := rfl
@[simp] theorem finishCompression_msg (s : State) : (finishCompression s).msg = s.msg := rfl
@[simp] theorem finishCompression_epoch (s : State) : (finishCompression s).epoch = s.epoch := rfl
@[simp] theorem finishCompression_draws (s : State) : (finishCompression s).draws = s.draws := rfl
@[simp] theorem finishCompression_begun (s : State) : (finishCompression s).begun = s.begun := rfl
@[simp] theorem finishCompression_turns (s : State) : (finishCompression s).turns = s.turns := rfl
@[simp] theorem finishCompression_reply (s : State) : (finishCompression s).reply = s.reply := rfl

/-! ### compressBlock -/

@[simp] theorem compressBlock_h (s : State) : (compressBlock s).h = compressHash s.h s.w := rfl
@[simp] theorem compressBlock_wr (s : State) : (compressBlock s).wr = compressedWork s.h s.w := rfl
@[simp] theorem compressBlock_blk (s : State) : (compressBlock s).blk = s.blk := rfl
@[simp] theorem compressBlock_w (s : State) : (compressBlock s).w = s.w := rfl
@[simp] theorem compressBlock_variant (s : State) : (compressBlock s).variant = s.variant := rfl
@[simp] theorem compressBlock_outlen (s : State) : (compressBlock s).outlen = s.outlen := rfl
@[simp] theorem compressBlock_mlen (s : State) : (compressBlock s).mlen = s.mlen := rfl
@[simp] theorem compressBlock_plen (s : State) : (compressBlock s).plen = s.plen := rfl
@[simp] theorem compressBlock_nblk (s : State) : (compressBlock s).nblk = s.nblk := rfl
@[simp] theorem compressBlock_bidx (s : State) : (compressBlock s).bidx = s.bidx := rfl
@[simp] theorem compressBlock_tcnt (s : State) : (compressBlock s).tcnt = 80 := rfl
@[simp] theorem compressBlock_capacity (s : State) : (compressBlock s).capacity = s.capacity := rfl
@[simp] theorem compressBlock_status (s : State) : (compressBlock s).status = s.status := rfl
@[simp] theorem compressBlock_dbuf (s : State) : (compressBlock s).dbuf = s.dbuf := rfl
@[simp] theorem compressBlock_pend (s : State) : (compressBlock s).pend = s.pend := rfl
@[simp] theorem compressBlock_msg (s : State) : (compressBlock s).msg = s.msg := rfl
@[simp] theorem compressBlock_epoch (s : State) : (compressBlock s).epoch = s.epoch := rfl
@[simp] theorem compressBlock_draws (s : State) : (compressBlock s).draws = s.draws := rfl
@[simp] theorem compressBlock_begun (s : State) : (compressBlock s).begun = s.begun := rfl
@[simp] theorem compressBlock_turns (s : State) : (compressBlock s).turns = s.turns := rfl
@[simp] theorem compressBlock_reply (s : State) : (compressBlock s).reply = s.reply := rfl

/-! ### advanceIndex -/

@[simp] theorem advanceIndex_h (s : State) : (advanceIndex s).h = s.h := rfl
@[simp] theorem advanceIndex_wr (s : State) : (advanceIndex s).wr = s.wr := rfl
@[simp] theorem advanceIndex_blk (s : State) : (advanceIndex s).blk = s.blk := rfl
@[simp] theorem advanceIndex_w (s : State) : (advanceIndex s).w = s.w := rfl
@[simp] theorem advanceIndex_variant (s : State) : (advanceIndex s).variant = s.variant := rfl
@[simp] theorem advanceIndex_outlen (s : State) : (advanceIndex s).outlen = s.outlen := rfl
@[simp] theorem advanceIndex_mlen (s : State) : (advanceIndex s).mlen = s.mlen := rfl
@[simp] theorem advanceIndex_plen (s : State) : (advanceIndex s).plen = s.plen := rfl
@[simp] theorem advanceIndex_nblk (s : State) : (advanceIndex s).nblk = s.nblk := rfl
@[simp] theorem advanceIndex_bidx (s : State) : (advanceIndex s).bidx = s.bidx + 1 := rfl
@[simp] theorem advanceIndex_tcnt (s : State) : (advanceIndex s).tcnt = s.tcnt := rfl
@[simp] theorem advanceIndex_capacity (s : State) : (advanceIndex s).capacity = s.capacity := rfl
@[simp] theorem advanceIndex_status (s : State) : (advanceIndex s).status = s.status := rfl
@[simp] theorem advanceIndex_dbuf (s : State) : (advanceIndex s).dbuf = s.dbuf := rfl
@[simp] theorem advanceIndex_pend (s : State) : (advanceIndex s).pend = s.pend := rfl
@[simp] theorem advanceIndex_msg (s : State) : (advanceIndex s).msg = s.msg := rfl
@[simp] theorem advanceIndex_epoch (s : State) : (advanceIndex s).epoch = s.epoch := rfl
@[simp] theorem advanceIndex_draws (s : State) : (advanceIndex s).draws = s.draws := rfl
@[simp] theorem advanceIndex_begun (s : State) : (advanceIndex s).begun = s.begun := rfl
@[simp] theorem advanceIndex_turns (s : State) : (advanceIndex s).turns = s.turns := rfl
@[simp] theorem advanceIndex_reply (s : State) : (advanceIndex s).reply = s.reply := rfl

/-! ### writeDigest -/

@[simp] theorem writeDigest_h (s : State) : (writeDigest s).h = s.h := rfl
@[simp] theorem writeDigest_wr (s : State) : (writeDigest s).wr = s.wr := rfl
@[simp] theorem writeDigest_blk (s : State) : (writeDigest s).blk = s.blk := rfl
@[simp] theorem writeDigest_w (s : State) : (writeDigest s).w = s.w := rfl
@[simp] theorem writeDigest_variant (s : State) : (writeDigest s).variant = s.variant := rfl
@[simp] theorem writeDigest_outlen (s : State) : (writeDigest s).outlen = s.outlen := rfl
@[simp] theorem writeDigest_mlen (s : State) : (writeDigest s).mlen = s.mlen := rfl
@[simp] theorem writeDigest_plen (s : State) : (writeDigest s).plen = s.plen := rfl
@[simp] theorem writeDigest_nblk (s : State) : (writeDigest s).nblk = s.nblk := rfl
@[simp] theorem writeDigest_bidx (s : State) : (writeDigest s).bidx = s.bidx := rfl
@[simp] theorem writeDigest_tcnt (s : State) : (writeDigest s).tcnt = s.tcnt := rfl
@[simp] theorem writeDigest_capacity (s : State) : (writeDigest s).capacity = s.capacity := rfl
@[simp] theorem writeDigest_status (s : State) : (writeDigest s).status = { s.status with done := true } := rfl
@[simp] theorem writeDigest_dbuf (s : State) : (writeDigest s).dbuf = wordsToBytes (n := 8) s.h := rfl
@[simp] theorem writeDigest_pend (s : State) : (writeDigest s).pend = s.pend := rfl
@[simp] theorem writeDigest_msg (s : State) : (writeDigest s).msg = s.msg := rfl
@[simp] theorem writeDigest_epoch (s : State) : (writeDigest s).epoch = s.epoch := rfl
@[simp] theorem writeDigest_draws (s : State) : (writeDigest s).draws = s.draws := rfl
@[simp] theorem writeDigest_begun (s : State) : (writeDigest s).begun = s.begun := rfl
@[simp] theorem writeDigest_turns (s : State) : (writeDigest s).turns = s.turns := rfl
@[simp] theorem writeDigest_reply (s : State) : (writeDigest s).reply = s.reply := rfl

end Sys2Proof.Machine
end

