-- ==== Sys2Proof/Laws/Frame.lean ====
section
/-! SUPPORT. What the command frame (R160), the host's accesses and one step can do, each said once: provers cite these lemmas
instead of unfolding the operations. -/

namespace Sys2Proof.Machine

/-! ### The frame -/

/-- What the frame does before a command's checks, in one record (R160). -/
theorem openFrame_eq (opc : Byte) (s : State) :
    openFrame opc s =
      { s with status :=
        { s.status with
          done := if opc = 0x0A then s.status.done else false
          cmdovr := if restarts opc && !s.begun then false else s.status.cmdovr
          wrovr := if restarts opc && !s.begun then false else s.status.wrovr
          errcode := if restarts opc then 0 else s.status.errcode } } := by
  obtain ⟨_, _, _, _, _, _, _, _, _, _, _, _, ⟨_, _, _, _, _, _⟩, _, _, _, _, _, begun, _, _⟩ := s
  unfold openFrame clearOverruns clearError
  by_cases ho : opc = 0x0A
  · simp only [if_pos ho]
    cases restarts opc <;> cases begun <;> rfl
  · simp only [if_neg ho]
    cases restarts opc <;> cases begun <;> rfl

@[simp] theorem openFrame_h (opc : Byte) (s : State) : (openFrame opc s).h = s.h := by rw [openFrame_eq]
@[simp] theorem openFrame_wr (opc : Byte) (s : State) : (openFrame opc s).wr = s.wr := by rw [openFrame_eq]
@[simp] theorem openFrame_blk (opc : Byte) (s : State) : (openFrame opc s).blk = s.blk := by rw [openFrame_eq]
@[simp] theorem openFrame_w (opc : Byte) (s : State) : (openFrame opc s).w = s.w := by rw [openFrame_eq]
@[simp] theorem openFrame_variant (opc : Byte) (s : State) : (openFrame opc s).variant = s.variant := by rw [openFrame_eq]
@[simp] theorem openFrame_outlen (opc : Byte) (s : State) : (openFrame opc s).outlen = s.outlen := by rw [openFrame_eq]
@[simp] theorem openFrame_mlen (opc : Byte) (s : State) : (openFrame opc s).mlen = s.mlen := by rw [openFrame_eq]
@[simp] theorem openFrame_plen (opc : Byte) (s : State) : (openFrame opc s).plen = s.plen := by rw [openFrame_eq]
@[simp] theorem openFrame_nblk (opc : Byte) (s : State) : (openFrame opc s).nblk = s.nblk := by rw [openFrame_eq]
@[simp] theorem openFrame_bidx (opc : Byte) (s : State) : (openFrame opc s).bidx = s.bidx := by rw [openFrame_eq]
@[simp] theorem openFrame_tcnt (opc : Byte) (s : State) : (openFrame opc s).tcnt = s.tcnt := by rw [openFrame_eq]
@[simp] theorem openFrame_capacity (opc : Byte) (s : State) : (openFrame opc s).capacity = s.capacity := by
  rw [openFrame_eq]
@[simp] theorem openFrame_dbuf (opc : Byte) (s : State) : (openFrame opc s).dbuf = s.dbuf := by rw [openFrame_eq]
@[simp] theorem openFrame_pend (opc : Byte) (s : State) : (openFrame opc s).pend = s.pend := by rw [openFrame_eq]
@[simp] theorem openFrame_msg (opc : Byte) (s : State) : (openFrame opc s).msg = s.msg := by rw [openFrame_eq]
@[simp] theorem openFrame_epoch (opc : Byte) (s : State) : (openFrame opc s).epoch = s.epoch := by rw [openFrame_eq]
@[simp] theorem openFrame_draws (opc : Byte) (s : State) : (openFrame opc s).draws = s.draws := by rw [openFrame_eq]
@[simp] theorem openFrame_begun (opc : Byte) (s : State) : (openFrame opc s).begun = s.begun := by rw [openFrame_eq]
@[simp] theorem openFrame_turns (opc : Byte) (s : State) : (openFrame opc s).turns = s.turns := by rw [openFrame_eq]
@[simp] theorem openFrame_reply (opc : Byte) (s : State) : (openFrame opc s).reply = s.reply := by rw [openFrame_eq]
@[simp] theorem openFrame_busy (opc : Byte) (s : State) : (openFrame opc s).status.busy = s.status.busy := by
  rw [openFrame_eq]
@[simp] theorem openFrame_cact (opc : Byte) (s : State) : (openFrame opc s).status.cact = s.status.cact := by
  rw [openFrame_eq]

/-- The gate is open with no error latched, and for INIT and DIGEST always (R205). -/
theorem gateClosed_eq_false {opc : Byte} {s : State} (h : s.status.errcode = 0 ∨ restarts opc = true) :
    gateClosed opc s = false := by
  rcases h with h | h <;> simp [gateClosed, h]

/-- Everything a command can do (R160): it is ignored by the gate, or its checks pass and its effects happen, or it raises an
error. -/
theorem perform_cases {opc : Byte} {body : State → Verdict} {s t : State} (h : perform opc body s = .next t) :
    (gateClosed opc s = true ∧ t = endCommand s) ∨
      (gateClosed opc s = false ∧ ∃ u, body (openFrame opc s) = .acted u ∧ t = endCommand u) ∨
      (gateClosed opc s = false ∧ ∃ e, body (openFrame opc s) = .raised e ∧
        t = endCommand (raiseError e (openFrame opc s))) := by
  unfold perform at h
  split at h
  · rename_i hg
    exact .inl ⟨hg, by simpa using h.symm⟩
  · rename_i hg
    have hg' : gateClosed opc s = false := by simpa using hg
    split at h
    · rename_i u hu
      exact .inr (.inl ⟨hg', u, hu, by simpa using h.symm⟩)
    · rename_i e he
      exact .inr (.inr ⟨hg', e, he, by simpa using h.symm⟩)
    · simp at h

/-- A command whose checks pass. -/
theorem perform_acted {opc : Byte} {body : State → Verdict} {s u : State} (hg : gateClosed opc s = false)
    (hb : body (openFrame opc s) = .acted u) : perform opc body s = .next (endCommand u) := by
  simp [perform, hg, hb]

/-- A command that raises an error. -/
theorem perform_raised {opc : Byte} {body : State → Verdict} {s : State} {e : ErrorName} (hg : gateClosed opc s = false)
    (hb : body (openFrame opc s) = .raised e) :
    perform opc body s = .next (endCommand (raiseError e (openFrame opc s))) := by
  simp [perform, hg, hb]

/-- A command the gate ignores (R205). -/
theorem perform_ignored {opc : Byte} {body : State → Verdict} {s : State} (hg : gateClosed opc s = true) :
    perform opc body s = .next (endCommand s) := by
  simp [perform, hg]

/-- A command never refuses. -/
theorem perform_ne_refused (opc : Byte) (body : State → Verdict) (s : State) (r : Refusal) :
    perform opc body s ≠ .refused r := by
  unfold perform
  split
  · simp
  · split <;> simp

/-- The body each command performs under its opcode. -/
theorem exec_eq_perform (i : Instr) (s : State) : ∃ body, exec i s = perform (opcodeOf i) body s := by
  cases i <;> exact ⟨_, rfl⟩

/-! ### Host accesses -/

/-- Everything a host read can do: a bus error, or a reply and, with BUSY = 1, one free draw (R58, R60, R67). -/
theorem hostRead_cases (width : Width) (offset : Word) (s : State) :
    (readTarget width s.capacity.toNat offset = none ∧
        hostRead width offset s = { s with reply := some (.read 0 true) }) ∨
      (∃ loc, readTarget width s.capacity.toNat offset = some loc ∧ s.status.busy = true ∧
        hostRead width offset s = { s with reply := some (.read (busyReadData loc s) false), draws := s.draws + 1 }) ∨
      (∃ loc, readTarget width s.capacity.toNat offset = some loc ∧ s.status.busy = false ∧
        hostRead width offset s = { s with reply := some (.read (idleReadData loc s) false) }) := by
  unfold hostRead
  cases hl : readTarget width s.capacity.toNat offset with
  | none => exact .inl ⟨rfl, rfl⟩
  | some loc =>
    cases hb : s.status.busy with
    | true => exact .inr (.inl ⟨loc, rfl, rfl, by simp⟩)
    | false => exact .inr (.inr ⟨loc, rfl, rfl, by simp⟩)

/-- Everything a host write can do: a bus error, a dropped write with BUSY = 1, a stored one with BUSY = 0 (R58, R241). -/
theorem hostWrite_cases (width : Width) (offset v : Word) (s : State) :
    (writeTarget width s.capacity.toNat offset = none ∧
        hostWrite width offset v s = { s with reply := some (.written true) }) ∨
      (∃ loc, writeTarget width s.capacity.toNat offset = some loc ∧ s.status.busy = true ∧
        hostWrite width offset v s = { dropWrite loc s with reply := some (.written false) }) ∨
      (∃ loc, writeTarget width s.capacity.toNat offset = some loc ∧ s.status.busy = false ∧
        hostWrite width offset v s = { storeAt loc v s with reply := some (.written false) }) := by
  unfold hostWrite
  cases hl : writeTarget width s.capacity.toNat offset with
  | none => exact .inl ⟨rfl, rfl⟩
  | some loc =>
    cases hb : s.status.busy with
    | true => exact .inr (.inl ⟨loc, rfl, rfl, by simp⟩)
    | false => exact .inr (.inr ⟨loc, rfl, rfl, by simp⟩)

/-- A dropped write sets one of the two overrun bits and nothing else (R241). -/
theorem dropWrite_eq (loc : Location) (s : State) :
    dropWrite loc s =
      { s with status :=
        { s.status with
          cmdovr := s.status.cmdovr || decide (loc = .reg .cmd)
          wrovr := s.status.wrovr || decide (loc ≠ .reg .cmd) } } := by
  cases loc with
  | reg r => cases r <;> simp [dropWrite]
  | dout j => simp [dropWrite]
  | msg j => simp [dropWrite]

/-- A legal write reaches a register or a byte inside MSG (R57). -/
theorem writeTarget_some {width : Width} {capacity : Nat} {offset : Word} {loc : Location}
    (h : writeTarget width capacity offset = some loc) :
    (∃ r, width = .bits64 ∧ loc = .reg r ∧ regAt offset.toNat = some r) ∨
      (∃ j, width = .bits8 ∧ loc = .msg j ∧ offset.toNat = msgBase + j ∧ j < capacity) := by
  unfold writeTarget locate at h
  dsimp only at h
  split at h
  · rename_i r hloc
    obtain rfl : Location.reg r = loc := by simpa using h
    refine .inl ⟨r, rfl, rfl, ?_⟩
    split at hloc
    · simpa using hloc
    · split at hloc
      · simp at hloc
      · split at hloc <;> simp at hloc
  · rename_i j hloc
    obtain rfl : Location.msg j = loc := by simpa using h
    refine .inr ⟨j, rfl, rfl, ?_⟩
    split at hloc
    · simp at hloc
    · split at hloc
      · simp at hloc
      · split at hloc
        · simp at hloc; omega
        · simp at hloc
  · simp at h

/-! ### One step -/

/-- Everything a step can do: the engine's move (also when no move is left), the start of the pending command, a host access, a
reset (R20, R230, R248). -/
theorem step_cases {s t : State} (h : step s = .next t) :
    ∃ turn u, nextTurn s = (turn, u) ∧ (turn = .engine ∧ u.status.busy = true ∧ performPending u = .next t ∨
      turn = .engine ∧ u.status.busy = false ∧ t = u ∨
      turn = .start ∧ t = startPending u ∨
      (∃ a, turn = .access a ∧ t = hostAccess a u) ∨
      turn = .reset ∧ t = resetEvent u) := by
  refine ⟨(nextTurn s).1, (nextTurn s).2, rfl, ?_⟩
  unfold step takeNextTurn takeTurn at h
  cases hturn : (nextTurn s).1 with
  | engine =>
    rw [hturn] at h
    dsimp only at h
    unfold engineTurn at h
    cases hb : (nextTurn s).2.status.busy with
    | true => rw [hb] at h; exact .inl ⟨rfl, rfl, by simpa using h⟩
    | false => rw [hb] at h; exact .inr (.inl ⟨rfl, rfl, by simpa using h.symm⟩)
  | start => rw [hturn] at h; exact .inr (.inr (.inl ⟨rfl, by simpa using h.symm⟩))
  | access a => rw [hturn] at h; exact .inr (.inr (.inr (.inl ⟨a, rfl, by simpa using h.symm⟩)))
  | reset => rw [hturn] at h; exact .inr (.inr (.inr (.inr ⟨rfl, by simpa using h.symm⟩)))

/-- The state the next move sees is the state without that move. -/
theorem nextTurn_state (s : State) : (nextTurn s).2 = { s with turns := s.turns.tail } := by
  unfold nextTurn
  cases h : s.turns with
  | nil => simp; cases s; simp_all
  | cons t rest => simp

/-- The engine's start of a command changes only CMDOVR, WROVR and the model's own mark (assumption 5). -/
theorem startPending_eq (s : State) :
    startPending s = s ∨
      startPending s =
        { s with status := { s.status with cmdovr := false, wrovr := false }, begun := true } := by
  unfold startPending
  split
  · rename_i h
    simp at h
    exact .inr (by simp [clearOverruns, h.1.2])
  · exact .inl rfl

end Sys2Proof.Machine
end

