-- ==== Sys2Proof/Laws/Effects.lean ====
section
/-! SUPPORT. What the effects of the block and digest commands leave unchanged, and the laws of rounds and schedule. -/

namespace Sys2Proof.Machine

/-! ### Rounds and schedule -/

/-- Rounds in two runs are rounds in one (R172). -/
theorem runRounds_add (w : Vector Word 80) (a b t : Nat) (r : WorkRegs) :
    runRounds w (a + b) t r = runRounds w b (t + a) (runRounds w a t r) := by
  induction a generalizing t r with
  | zero => simp [runRounds]
  | succ a ih =>
    have h1 : a + 1 + b = (a + b) + 1 := by omega
    have h2 : t + (a + 1) = (t + 1) + a := by omega
    rw [h1, runRounds, runRounds, ih, h2]

theorem wordAt_eq {n : Nat} (v : Vector Word n) (t : Nat) (h : t < n) : wordAt v t = v[t] := by
  simp [wordAt, h]

/-- Extending a schedule keeps the words it has, at the end of the newest-first list. -/
theorem extendSchedule_suffix (n : Nat) (recent : List Word) : ∃ new, extendSchedule n recent = new ++ recent := by
  induction n generalizing recent with
  | zero => exact ⟨[], rfl⟩
  | succ n ih =>
    obtain ⟨new, h⟩ := ih (nextScheduleWord recent :: recent)
    exact ⟨new ++ [nextScheduleWord recent], by rw [extendSchedule, h]; simp⟩

/-! ### One block -/

@[simp] theorem processBlock_variant (s : State) : (processBlock s).variant = s.variant := rfl
@[simp] theorem processBlock_outlen (s : State) : (processBlock s).outlen = s.outlen := rfl
@[simp] theorem processBlock_mlen (s : State) : (processBlock s).mlen = s.mlen := rfl
@[simp] theorem processBlock_plen (s : State) : (processBlock s).plen = s.plen := rfl
@[simp] theorem processBlock_nblk (s : State) : (processBlock s).nblk = s.nblk := rfl
@[simp] theorem processBlock_bidx (s : State) : (processBlock s).bidx = s.bidx + 1 := rfl
@[simp] theorem processBlock_tcnt (s : State) : (processBlock s).tcnt = 80 := rfl
@[simp] theorem processBlock_capacity (s : State) : (processBlock s).capacity = s.capacity := rfl
@[simp] theorem processBlock_status (s : State) : (processBlock s).status = s.status := rfl
@[simp] theorem processBlock_dbuf (s : State) : (processBlock s).dbuf = s.dbuf := rfl
@[simp] theorem processBlock_pend (s : State) : (processBlock s).pend = s.pend := rfl
@[simp] theorem processBlock_msg (s : State) : (processBlock s).msg = s.msg := rfl
@[simp] theorem processBlock_epoch (s : State) : (processBlock s).epoch = s.epoch := rfl
@[simp] theorem processBlock_draws (s : State) : (processBlock s).draws = s.draws := rfl
@[simp] theorem processBlock_begun (s : State) : (processBlock s).begun = s.begun := rfl
@[simp] theorem processBlock_turns (s : State) : (processBlock s).turns = s.turns := rfl
@[simp] theorem processBlock_reply (s : State) : (processBlock s).reply = s.reply := rfl
@[simp] theorem processBlock_blk (s : State) : (processBlock s).blk = blockWords s s.bidx.toNat := rfl
@[simp] theorem processBlock_w (s : State) :
    (processBlock s).w = schedule (blockWords s s.bidx.toNat) := rfl
@[simp] theorem processBlock_wr (s : State) :
    (processBlock s).wr = compressedWork s.h (schedule (blockWords s s.bidx.toNat)) := rfl
@[simp] theorem processBlock_h (s : State) :
    (processBlock s).h = compressHash s.h (schedule (blockWords s s.bidx.toNat)) := rfl

/-- Block words depend only on MSG and the reset it was drawn at. -/
theorem blockWords_congr {s t : State} (hm : t.msg = s.msg) (he : t.epoch = s.epoch) (i : Nat) :
    blockWords t i = blockWords s i := by
  have : ∀ off, msgByte t off = msgByte s off := fun off => msgByte_congr (by rw [hm]) he
  simp [blockWords, memRead, this]

/-! ### Several blocks -/

/-- Everything `n` blocks leave unchanged, in one record: they change H, WR, BLK, W, BIDX and TCNT only. -/
theorem processBlocks_frame (n : Nat) (s : State) :
    processBlocks n s =
      { s with
        h := (processBlocks n s).h
        wr := (processBlocks n s).wr
        blk := (processBlocks n s).blk
        w := (processBlocks n s).w
        bidx := (processBlocks n s).bidx
        tcnt := (processBlocks n s).tcnt } := by
  induction n generalizing s with
  | zero => rfl
  | succ n ih => rw [processBlocks]; rw [ih (processBlock s)]; rfl

/-- One more block at the end. -/
theorem processBlocks_succ (n : Nat) (s : State) : processBlocks (n + 1) s = processBlock (processBlocks n s) := by
  induction n generalizing s with
  | zero => rfl
  | succ n ih => rw [processBlocks, ih (processBlock s)]; rfl

theorem processBlocks_msg (n : Nat) (s : State) : (processBlocks n s).msg = s.msg := by rw [processBlocks_frame]
theorem processBlocks_epoch (n : Nat) (s : State) : (processBlocks n s).epoch = s.epoch := by rw [processBlocks_frame]
theorem processBlocks_nblk (n : Nat) (s : State) : (processBlocks n s).nblk = s.nblk := by rw [processBlocks_frame]
theorem processBlocks_status (n : Nat) (s : State) : (processBlocks n s).status = s.status := by
  rw [processBlocks_frame]

/-- BIDX after `n` blocks. -/
theorem processBlocks_bidx (n : Nat) (s : State) :
    (processBlocks n s).bidx = s.bidx + BitVec.ofNat 64 n := by
  induction n with
  | zero => simp [processBlocks]
  | succ n ih =>
    rw [processBlocks_succ, processBlock_bidx, ih, BitVec.add_assoc]
    congr 1
    apply BitVec.eq_of_toNat_eq
    simp

end Sys2Proof.Machine
end

