-- ==== Sys2Proof/Laws/Commands.lean ====
section
/-! SUPPORT. Each command's checks said once (spec 43_commands.md R161 to R171): which error it raises, when, and with which
effects it acts. Provers cite these lemmas instead of unfolding a command. -/

namespace Sys2Proof.Machine

/-! ### Which opcodes restart (R160, R205) -/

@[simp] theorem restarts_init : restarts 1#8 = true := rfl
@[simp] theorem restarts_pad : restarts 2#8 = false := rfl
@[simp] theorem restarts_loadblk : restarts 3#8 = false := rfl
@[simp] theorem restarts_sched : restarts 4#8 = false := rfl
@[simp] theorem restarts_cstart : restarts 5#8 = false := rfl
@[simp] theorem restarts_round : restarts 6#8 = false := rfl
@[simp] theorem restarts_cfinal : restarts 7#8 = false := rfl
@[simp] theorem restarts_compress : restarts 8#8 = false := rfl
@[simp] theorem restarts_block : restarts 9#8 = false := rfl
@[simp] theorem restarts_finish : restarts 10#8 = false := rfl
@[simp] theorem restarts_digest : restarts 11#8 = true := rfl

theorem restarts_iff (opc : Byte) : restarts opc = true ↔ opc = 0x01 ∨ opc = 0x0B := by
  simp [restarts]

theorem restarts_opcodeOf (i : Instr) : restarts (opcodeOf i) = clearsErrors i := by
  cases i <;> rfl

/-! ### The body of a command -/

/-- The checks and effects of a command. -/
def bodyOf : Instr → State → Verdict
  | .init v => initBody v
  | .pad => padBody
  | .loadblk => loadblkBody
  | .sched => schedBody
  | .cstart => cstartBody
  | .round n => roundBody n
  | .cfinal => cfinalBody
  | .compress => compressBody
  | .block => blockBody
  | .finish => finishBody
  | .digest v => digestBody v

/-- Every command is its body in the frame of R160. -/
theorem exec_eq_body (i : Instr) (s : State) : exec i s = perform (opcodeOf i) (bodyOf i) s := by
  cases i <;> rfl

/-- The frame of a command that is neither INIT, DIGEST nor FINISH: it clears DONE (R160). -/
theorem openFrame_plain {opc : Byte} (hr : restarts opc = false) (ho : opc ≠ 0x0A) (s : State) :
    openFrame opc s = { s with status := { s.status with done := false } } := by
  rw [openFrame_eq]
  simp only [hr, if_neg ho]
  simp

/-- The frame of FINISH leaves the state as it is (R160). -/
theorem openFrame_finish (s : State) : openFrame 0x0A s = s := by
  rw [openFrame_eq]
  simp

/-- The frame of INIT and DIGEST: ERRCODE and DONE are cleared, CMDOVR and WROVR too unless `Turn.start` did it already
(R160; assumption 5). -/
theorem openFrame_restart {opc : Byte} (hr : restarts opc = true) (s : State) :
    openFrame opc s =
      { s with status :=
        { s.status with
          done := false, errcode := 0
          cmdovr := s.begun && s.status.cmdovr, wrovr := s.begun && s.status.wrovr } } := by
  have ho : opc ≠ 0x0A := by rintro rfl; simp at hr
  rw [openFrame_eq]
  simp only [hr, if_neg ho]
  cases s.begun <;> simp

/-- A command that passes the gate and its checks. -/
theorem exec_acted {i : Instr} {s u : State} (hg : s.status.errcode = 0 ∨ clearsErrors i = true)
    (hb : bodyOf i (openFrame (opcodeOf i) s) = .acted u) : exec i s = .next (endCommand u) := by
  rw [exec_eq_body]
  exact perform_acted (gateClosed_eq_false (by rwa [restarts_opcodeOf])) hb

/-- A command that passes the gate and fails a check. -/
theorem exec_raised {i : Instr} {s : State} {e : ErrorName} (hg : s.status.errcode = 0 ∨ clearsErrors i = true)
    (hb : bodyOf i (openFrame (opcodeOf i) s) = .raised e) :
    exec i s = .next (endCommand (raiseError e (openFrame (opcodeOf i) s))) := by
  rw [exec_eq_body]
  exact perform_raised (gateClosed_eq_false (by rwa [restarts_opcodeOf])) hb

/-- One command of a list. -/
theorem execList_cons {i : Instr} {s t u : State} {rest : List Instr} (h : exec i s = .next t)
    (hr : execList rest t = .next u) : execList (i :: rest) s = .next u := by
  rw [execList, h]
  exact hr

/-! ### Runs -/

/-- A run of no steps. -/
theorem run_zero (s : State) : Host.Core.run core 0 s = .next s := rfl

/-- A run whose first step goes on. -/
theorem run_next {k : Nat} {s t : State} (h : step s = .next t) :
    Host.Core.run core (k + 1) s = Host.Core.run core k t := by
  have e : core.step s = .next t := h
  simp only [Host.Core.run, e]

/-! ### Selectors -/

theorem variantOf_bits (x : Variant) : variantOf (variantBits x) = some x := by cases x <;> rfl

theorem variantOf_some {v : Nat} {x : Variant} (h : variantOf v = some x) : v = variantBits x := by
  unfold variantOf at h
  split at h
  · cases h; assumption
  split at h
  · cases h; assumption
  split at h
  · cases h; assumption
  split at h
  · cases h; assumption
  · cases h

theorem variantOf_none {v : Nat} : variantOf v = none ↔ v ∉ ([224, 256, 384, 512] : List Nat) := by
  constructor
  · intro h hv
    simp at hv
    rcases hv with rfl | rfl | rfl | rfl <;> simp [variantOf] at h
  · intro h
    simp at h
    simp [variantOf, h]

/-! ### Each command's checks -/

theorem initBody_cases (v : Nat) (s : State) :
    (v ∉ ([224, 256, 384, 512] : List Nat) ∧ initBody v s = .raised .invalidVariant) ∨
      ∃ x, v = variantBits x ∧ initBody v s = .acted (loadVariant x s) := by
  unfold initBody
  cases h : variantOf v with
  | none => exact .inl ⟨variantOf_none.1 h, rfl⟩
  | some x => exact .inr ⟨x, variantOf_some h, rfl⟩

theorem padBody_cases (s : State) :
    (s.variant = 0 ∧ padBody s = .raised .sequenceError) ∨
      (s.variant ≠ 0 ∧ s.capacity.toNat < paddedLength s.mlen.toNat ∧ padBody s = .raised .capacityError) ∨
      (s.variant ≠ 0 ∧ paddedLength s.mlen.toNat ≤ s.capacity.toNat ∧ padBody s = .acted (padMessage s)) := by
  unfold padBody messageFits
  by_cases hv : s.variant = 0
  · exact .inl ⟨hv, if_pos hv⟩
  · by_cases hf : paddedLength s.mlen.toNat ≤ s.capacity.toNat
    · exact .inr (.inr ⟨hv, hf, by simp only [if_neg hv, hf, decide_true]; rfl⟩)
    · exact .inr (.inl ⟨hv, by omega, by simp only [if_neg hv, hf, decide_false]; rfl⟩)

theorem loadblkBody_cases (s : State) :
    (s.variant = 0 ∧ loadblkBody s = .raised .sequenceError) ∨
      (s.variant ≠ 0 ∧ (s.nblk.toNat ≤ s.bidx.toNat ∨ s.plen.toNat % 128 ≠ 0) ∧
        loadblkBody s = .raised .lengthError) ∨
      (s.variant ≠ 0 ∧ s.bidx.toNat < s.nblk.toNat ∧ s.plen.toNat % 128 = 0 ∧
        s.capacity.toNat < 128 * s.bidx.toNat + 128 ∧ loadblkBody s = .stopped .blockOutsideMsg) ∨
      (s.variant ≠ 0 ∧ s.bidx.toNat < s.nblk.toNat ∧ s.plen.toNat % 128 = 0 ∧
        128 * s.bidx.toNat + 128 ≤ s.capacity.toNat ∧ loadblkBody s = .acted (loadBlock s)) := by
  unfold loadblkBody blockInsideMsg
  by_cases hv : s.variant = 0
  · exact .inl ⟨hv, if_pos hv⟩
  rw [if_neg hv]
  by_cases hn : s.nblk ≤ s.bidx
  · exact .inr (.inl ⟨hv, .inl (BitVec.le_def.1 hn), if_pos hn⟩)
  have hn' : s.bidx.toNat < s.nblk.toNat := by simpa [BitVec.le_def] using hn
  rw [if_neg hn]
  by_cases hp : s.plen.toNat % 128 = 0
  · rw [if_neg (not_not.2 hp)]
    by_cases hf : 128 * s.bidx.toNat + 128 ≤ s.capacity.toNat
    · exact .inr (.inr (.inr ⟨hv, hn', hp, hf, by simp only [hf, decide_true]; rfl⟩))
    · exact .inr (.inr (.inl ⟨hv, hn', hp, by omega, by simp only [hf, decide_false]; rfl⟩))
  · exact .inr (.inl ⟨hv, .inr hp, if_pos hp⟩)

theorem schedBody_cases (s : State) :
    ((s.variant = 0 ∨ s.status.cact = true) ∧ schedBody s = .raised .sequenceError) ∨
      (s.variant ≠ 0 ∧ s.status.cact = false ∧ schedBody s = .acted (expandBlock s)) := by
  unfold schedBody
  by_cases hv : s.variant = 0
  · exact .inl ⟨.inl hv, if_pos hv⟩
  rw [if_neg hv]
  cases hc : s.status.cact with
  | true => exact .inl ⟨.inr rfl, rfl⟩
  | false => exact .inr ⟨hv, rfl, rfl⟩

theorem cstartBody_cases (s : State) :
    ((s.variant = 0 ∨ s.status.cact = true) ∧ cstartBody s = .raised .sequenceError) ∨
      (s.variant ≠ 0 ∧ s.status.cact = false ∧ cstartBody s = .acted (startCompression s)) := by
  unfold cstartBody
  by_cases hv : s.variant = 0
  · exact .inl ⟨.inl hv, if_pos hv⟩
  rw [if_neg hv]
  cases hc : s.status.cact with
  | true => exact .inl ⟨.inr rfl, rfl⟩
  | false => exact .inr ⟨hv, rfl, rfl⟩

theorem roundBody_cases (n : Nat) (s : State) :
    ((s.variant = 0 ∨ s.status.cact = false ∨ n = 0 ∨ 80 < s.tcnt.toNat + n) ∧
        roundBody n s = .raised .sequenceError) ∨
      (s.variant ≠ 0 ∧ s.status.cact = true ∧ 1 ≤ n ∧ s.tcnt.toNat + n ≤ 80 ∧
        roundBody n s = .acted (advanceRounds n s)) := by
  unfold roundBody
  by_cases hv : s.variant = 0
  · exact .inl ⟨.inl hv, if_pos hv⟩
  rw [if_neg hv]
  cases hc : s.status.cact with
  | false => exact .inl ⟨.inr (.inl rfl), rfl⟩
  | true =>
    by_cases hn : n = 0 ∨ 80 < s.tcnt.toNat + n
    · exact .inl ⟨.inr (.inr hn), by rw [if_neg (by simp), if_pos hn]⟩
    · exact .inr ⟨hv, rfl, by omega, by omega, by rw [if_neg (by simp), if_neg hn]⟩

theorem cfinalBody_cases (s : State) :
    ((s.variant = 0 ∨ s.status.cact = false ∨ s.tcnt ≠ 80) ∧ cfinalBody s = .raised .sequenceError) ∨
      (s.variant ≠ 0 ∧ s.status.cact = true ∧ s.tcnt = 80 ∧ cfinalBody s = .acted (finishCompression s)) := by
  unfold cfinalBody
  by_cases hv : s.variant = 0
  · exact .inl ⟨.inl hv, if_pos hv⟩
  rw [if_neg hv]
  cases hc : s.status.cact with
  | false => exact .inl ⟨.inr (.inl rfl), rfl⟩
  | true =>
    by_cases ht : s.tcnt = 80
    · exact .inr ⟨hv, rfl, ht, by rw [if_neg (by simp), if_neg (not_not.2 ht)]⟩
    · exact .inl ⟨.inr (.inr ht), by rw [if_neg (by simp), if_pos ht]⟩

theorem compressBody_cases (s : State) :
    ((s.variant = 0 ∨ s.status.cact = true) ∧ compressBody s = .raised .sequenceError) ∨
      (s.variant ≠ 0 ∧ s.status.cact = false ∧ compressBody s = .acted (compressBlock s)) := by
  unfold compressBody
  by_cases hv : s.variant = 0
  · exact .inl ⟨.inl hv, if_pos hv⟩
  rw [if_neg hv]
  cases hc : s.status.cact with
  | true => exact .inl ⟨.inr rfl, rfl⟩
  | false => exact .inr ⟨hv, rfl, rfl⟩

theorem blockBody_cases (s : State) :
    ((s.variant = 0 ∨ s.status.cact = true) ∧ blockBody s = .raised .sequenceError) ∨
      (s.variant ≠ 0 ∧ s.status.cact = false ∧ s.nblk.toNat ≤ s.bidx.toNat ∧
        blockBody s = .raised .lengthError) ∨
      (s.variant ≠ 0 ∧ s.status.cact = false ∧ s.bidx.toNat < s.nblk.toNat ∧
        s.capacity.toNat < 128 * s.bidx.toNat + 128 ∧ blockBody s = .stopped .blockOutsideMsg) ∨
      (s.variant ≠ 0 ∧ s.status.cact = false ∧ s.bidx.toNat < s.nblk.toNat ∧
        128 * s.bidx.toNat + 128 ≤ s.capacity.toNat ∧ blockBody s = .acted (processBlock s)) := by
  unfold blockBody blockInsideMsg
  by_cases hv : s.variant = 0
  · exact .inl ⟨.inl hv, if_pos hv⟩
  rw [if_neg hv]
  cases hc : s.status.cact with
  | true => exact .inl ⟨.inr rfl, rfl⟩
  | false =>
    rw [if_neg (by simp)]
    by_cases hn : s.nblk ≤ s.bidx
    · exact .inr (.inl ⟨hv, rfl, BitVec.le_def.1 hn, if_pos hn⟩)
    have hn' : s.bidx.toNat < s.nblk.toNat := by simpa [BitVec.le_def] using hn
    rw [if_neg hn]
    by_cases hf : 128 * s.bidx.toNat + 128 ≤ s.capacity.toNat
    · exact .inr (.inr (.inr ⟨hv, rfl, hn', hf, by simp only [hf, decide_true]; rfl⟩))
    · exact .inr (.inr (.inl ⟨hv, rfl, hn', by omega, by simp only [hf, decide_false]; rfl⟩))

theorem finishBody_cases (s : State) :
    ((s.variant = 0 ∨ s.status.cact = true) ∧ finishBody s = .raised .sequenceError) ∨
      (s.variant ≠ 0 ∧ s.status.cact = false ∧ finishBody s = .acted (writeDigest s)) := by
  unfold finishBody
  by_cases hv : s.variant = 0
  · exact .inl ⟨.inl hv, if_pos hv⟩
  rw [if_neg hv]
  cases hc : s.status.cact with
  | true => exact .inl ⟨.inr rfl, rfl⟩
  | false => exact .inr ⟨hv, rfl, rfl⟩

theorem digestBody_cases (v : Nat) (s : State) :
    (v ∉ ([224, 256, 384, 512] : List Nat) ∧ digestBody v s = .raised .invalidVariant) ∨
      (∃ x, v = variantBits x ∧ s.capacity.toNat < paddedLength s.mlen.toNat ∧
        digestBody v s = .raised .capacityError) ∨
      ∃ x, v = variantBits x ∧ paddedLength s.mlen.toNat ≤ s.capacity.toNat ∧
        digestBody v s = .acted (digestMessage x s) := by
  unfold digestBody messageFits
  cases h : variantOf v with
  | none => exact .inl ⟨variantOf_none.1 h, rfl⟩
  | some x =>
    by_cases hf : paddedLength s.mlen.toNat ≤ s.capacity.toNat
    · exact .inr (.inr ⟨x, variantOf_some h, hf, by simp only [hf, decide_true]; rfl⟩)
    · exact .inr (.inl ⟨x, variantOf_some h, by omega, by simp only [hf, decide_false]; rfl⟩)

end Sys2Proof.Machine
end

