-- ==== Sys2Proof/Laws/PerInstr.lean ====
section
/-! SUPPORT. The per-instruction family `EncodeFields`: the four fields of a command's word (spec 30_encoding.md R80, R88), one lemma
per command. -/

namespace Sys2Proof.Laws

/-- The fields of the word of a well-formed command: its opcode, its operand, and zero in both reserved fields (R80, R88). -/
def EncodeFields.Statement (i : Instr) : Prop :=
  i.wellFormed = true →
    opcOf (encode i) = opcodeOf i ∧ rsv1Of (encode i) = 0 ∧ argOf (encode i) = BitVec.ofNat 16 (operandOf i) ∧
      rsv2Of (encode i) = 0

/-- The fields of a word built as `encode` builds it. -/
theorem fields_of_parts (arg : BitVec 16) (opc : Byte) :
    let w : Word := (arg.setWidth 64 <<< 16) ||| opc.setWidth 64
    opcOf w = opc ∧ rsv1Of w = 0 ∧ argOf w = arg ∧ rsv2Of w = 0 := by
  refine ⟨?_, ?_, ?_, ?_⟩ <;>
    (apply BitVec.eq_of_getLsbD_eq
     intro j hj
     simp only [opcOf, rsv1Of, argOf, rsv2Of, BitVec.getLsbD_extractLsb', BitVec.getLsbD_or, BitVec.getLsbD_shiftLeft,
       BitVec.getLsbD_setWidth, hj])
  · have h1 : j < 16 := by omega
    have h2 : j < 64 := by omega
    simp [h1, h2]
  · have h1 : 8 + j < 16 := by omega
    simp [h1]
  · have h1 : opc.getLsbD (16 + j) = false := BitVec.getLsbD_of_ge _ _ (by omega)
    have h2 : 16 + j < 64 := by omega
    have h3 : j < 64 := by omega
    simp [h1, h2, h3]
  · have h1 : opc.getLsbD (32 + j) = false := BitVec.getLsbD_of_ge _ _ (by omega)
    have h2 : arg.getLsbD (32 + j - 16) = false := BitVec.getLsbD_of_ge _ _ (by omega)
    simp [h1, h2]

theorem EncodeFields.init (v : Nat) : EncodeFields.Statement (.init v) := fun _ => fields_of_parts _ _
theorem EncodeFields.pad : EncodeFields.Statement .pad := fun _ => fields_of_parts _ _
theorem EncodeFields.loadblk : EncodeFields.Statement .loadblk := fun _ => fields_of_parts _ _
theorem EncodeFields.sched : EncodeFields.Statement .sched := fun _ => fields_of_parts _ _
theorem EncodeFields.cstart : EncodeFields.Statement .cstart := fun _ => fields_of_parts _ _
theorem EncodeFields.round (n : Nat) : EncodeFields.Statement (.round n) := fun _ => fields_of_parts _ _
theorem EncodeFields.cfinal : EncodeFields.Statement .cfinal := fun _ => fields_of_parts _ _
theorem EncodeFields.compress : EncodeFields.Statement .compress := fun _ => fields_of_parts _ _
theorem EncodeFields.block : EncodeFields.Statement .block := fun _ => fields_of_parts _ _
theorem EncodeFields.finish : EncodeFields.Statement .finish := fun _ => fields_of_parts _ _
theorem EncodeFields.digest (v : Nat) : EncodeFields.Statement (.digest v) := fun _ => fields_of_parts _ _

end Sys2Proof.Laws
end

