-- ==== Sys2Proof/Tests/Slice0.lean ====
section
/-! SUPPORT. Tests of the model. The expected values are the spec's own (95_test_vectors.md; the tables of 30_encoding.md), named at
each test. Every `witness_<Name>` shows concrete values that meet the hypotheses of `Obligations.<Name>`, at the bounds of their
ranges. -/

namespace Sys2Proof.Tests

open Sys2Proof.Machine

/-! ### Helpers -/

/-- The command, or the step, goes on, and its next state passes the check. -/
def after (o : Host.Outcome State Fault Refusal) (p : State → Bool) : Bool :=
  match o with
  | .next t => p t
  | .fault _ => false
  | .refused _ => false

theorem exists_of_after {o : Host.Outcome State Fault Refusal} {p : State → Bool} (h : after o p = true) :
    ∃ t, o = .next t ∧ p t = true := by
  cases o with
  | next t => exact ⟨t, rfl, h⟩
  | fault f => simp [after] at h
  | refused r => simp [after] at h

/-- The engine of the vectors after reset: MSG_BYTES = 256 (95_test_vectors.md). -/
def tiny : State := { State.reset with capacity := 256 }

/-- After INIT 512, with MLEN = `len`. -/
def ready (len : Word) : State := { tiny with variant := 512, outlen := 64, h := initialHash .v512, mlen := len }

/-- As `ready 3`, with the message "abc" in MSG. -/
def abc : State := { ready 3 with msg := [(0, 0x61), (1, 0x62), (2, 0x63)] }

/-- As `abc`, after PAD. -/
def abcPadded : State := { abc with msg := padMemory abc.msg 3, plen := 128, nblk := 1 }

/-- The padded block of "abc" (95_test_vectors.md section 2.3). -/
def abcBlock : Vector Word 16 := #v[0x6162638000000000, 0, 0, 0, 0, 0, 0, 0, 0, 0, 0, 0, 0, 0, 0, 0x18]

/-- After CSTART, with `t` rounds run. -/
def started (t : Word) : State := { ready 3 with tcnt := t, status := { (ready 3).status with cact := true } }

/-- Two blocks are prepared and one is processed: BIDX = NBLK - 1 and the second block ends at MSG_BYTES. -/
def lastBlock : State := { ready 239 with plen := 256, nblk := 2, bidx := 1 }

/-- An InvalidVariantError is latched (vector E1). -/
def latched : State := { tiny with status := { tiny.status with errcode := 2 } }

/-- A command word is pending, and these moves come next. -/
def pending (word : Word) (turns : List Turn) (s : State) : State := { acceptCommand word s with turns := turns }

/-! ### Well-formedness -/

theorem test_wellformed_init : (Instr.init 65535).wellFormed = true ∧ (Instr.init 65536).wellFormed = false := by decide
theorem test_wellformed_round : (Instr.round 65535).wellFormed = true ∧ (Instr.round 65536).wellFormed = false := by decide
theorem test_wellformed_digest : (Instr.digest 65535).wellFormed = true ∧ (Instr.digest 65536).wellFormed = false := by
  decide

/-! ### Decoding, from the fields RSV2[63:32] ARG[31:16] RSV1[15:8] OPC[7:0] of R80 and the opcodes of R84 -/

theorem test_decode_init : decode 0x0000_0000_0200_0001 = .ok (.init 512) := by decide
theorem test_decode_pad : decode 0x0000_0000_0000_0002 = .ok .pad := by decide
theorem test_decode_loadblk : decode 0x0000_0000_0000_0003 = .ok .loadblk := by decide
theorem test_decode_sched : decode 0x0000_0000_0000_0004 = .ok .sched := by decide
theorem test_decode_cstart : decode 0x0000_0000_0000_0005 = .ok .cstart := by decide
theorem test_decode_round : decode 0x0000_0000_004F_0006 = .ok (.round 79) := by decide
theorem test_decode_cfinal : decode 0x0000_0000_0000_0007 = .ok .cfinal := by decide
theorem test_decode_compress : decode 0x0000_0000_0000_0008 = .ok .compress := by decide
theorem test_decode_block : decode 0x0000_0000_0000_0009 = .ok .block := by decide
theorem test_decode_finish : decode 0x0000_0000_0000_000A = .ok .finish := by decide
theorem test_decode_digest : decode 0x0000_0000_0180_000B = .ok (.digest 384) := by decide

/-- The words of E13 and the reserved space of R86, each refused by name. -/
theorem test_decode_rejects :
    decode 0x0000_0000_0000_0000 = .error (.reservedOpcode 0x00) ∧
      decode 0x0000_0000_0000_000C = .error (.reservedOpcode 0x0C) ∧
      decode 0x0000_0000_0000_00FF = .error (.reservedOpcode 0xFF) ∧
      decode 0x0000_0000_0001_0002 = .error (.argNotZero 0x02) ∧
      decode 0x0000_0000_0000_0104 = .error .rsv1NotZero ∧
      decode 0x0000_0001_0000_0001 = .error .rsv2NotZero := by decide

theorem test_decode_table_word : decodeTableWord 64 0x0000_0000_0050_0006 = some (.round 80) := by decide

/-! ### One or two steps of each command -/

/-- P2, INIT 512: IV_512. -/
theorem test_init_512 :
    after (exec (.init 512) { tiny with plen := 128, nblk := 1, bidx := 1, tcnt := 80 }) (fun t =>
      t.variant == 512 && t.outlen == 64 && t.h[0] == 0x6A09E667F3BCC908 && t.h[7] == 0x5BE0CD19137E2179 &&
        t.plen == 0 && t.nblk == 0 && t.bidx == 0 && t.tcnt == 0) = true := by decide +kernel

/-- E1. -/
theorem test_init_300 :
    after (exec (.init 300) tiny) (fun t => t.status.word == 0x200 && t.variant == 0 && t.h[0] == 0) = true := by
  decide +kernel

/-- P2, PAD of "abc". -/
theorem test_pad_abc :
    after (exec .pad abc) (fun t => t.plen == 128 && t.nblk == 1 && msgByte t 2 == 0x63 && msgByte t 3 == 0x80 &&
      msgByte t 4 == 0 && msgByte t 126 == 0 && msgByte t 127 == 0x18 && t.status.word == 0) = true := by decide +kernel

/-- E6: 240 bytes pad to 384, more than 256. -/
theorem test_pad_capacity :
    after (exec .pad (ready 240)) (fun t => t.status.word == 0x400 && t.plen == 0 && t.msg == []) = true := by
  decide +kernel

/-- P2, LOADBLK. -/
theorem test_loadblk_abc :
    after (exec .loadblk abcPadded) (fun t => t.blk == abcBlock && t.bidx == 0) = true := by decide +kernel

/-- E4: NBLK = 0. -/
theorem test_loadblk_length : after (exec .loadblk (ready 3)) (fun t => t.status.word == 0x100) = true := by
  decide +kernel

/-- Section 2.5: the schedule of the "abc" block. -/
theorem test_sched_abc :
    after (exec .sched { ready 3 with blk := abcBlock }) (fun t => t.w[15] == 0x18 && t.w[16] == 0x6162638000000000 &&
      t.w[17] == 0x00030000000000C0 && t.w[79] == 0x92AEEED1A7BCF7D2) = true := by decide +kernel

/-- Section 2.5: the block of all ones, whose sums wrap. -/
theorem test_sched_wraps :
    after (exec .sched { ready 3 with blk := Vector.replicate 16 0xFFFFFFFFFFFFFFFF }) (fun t =>
      t.w[16] == 0x05FFFFFFFFFFFFFC && t.w[79] == 0x838168CE14E43C5A) = true := by decide +kernel

/-- P2, CSTART. -/
theorem test_cstart :
    after (exec .cstart { ready 3 with tcnt := 80 }) (fun t =>
      t.wr.toVector == initialHash .v512 && t.tcnt == 0 && t.status.word == 0x004) = true := by decide +kernel

/-- E11. -/
theorem test_cstart_sequence :
    after (exec .cstart (started 5)) (fun t => t.status.word == 0x604 && t.tcnt == 5) = true := by decide +kernel

/-- P2, ROUND 1: row t = 0 of section 2.6. -/
theorem test_round_one :
    after (exec (.round 1) { started 0 with wr := workOfHash (initialHash .v512), w := Vector.replicate 80 0x6162638000000000 })
      (fun t => t.wr.a == 0xF6AFCEB8BCFCDDF5 && t.wr.b == 0x6A09E667F3BCC908 && t.wr.e == 0x58CB02347AB51F91 &&
        t.wr.h == 0x1F83D9ABFB41BD6B && t.tcnt == 1) = true := by decide +kernel

/-- E8, E9: ROUND 81 from TCNT = 0, ROUND 5 from TCNT = 78, ROUND 0. -/
theorem test_round_sequence :
    after (exec (.round 81) (started 0)) (fun t => t.status.word == 0x604 && t.tcnt == 0) = true ∧
      after (exec (.round 5) (started 78)) (fun t => t.status.word == 0x604 && t.tcnt == 78) = true ∧
      after (exec (.round 0) (started 0)) (fun t => t.status.word == 0x604) = true := by decide +kernel

/-- P2, CFINAL: a and h after round 79 added to IV_512. -/
theorem test_cfinal :
    after (exec .cfinal { started 80 with wr := { (started 80).wr with a := 0x73A54F399FA4B1B2, h := 0xCEB9FC3691CE8326 } })
      (fun t => t.h[0] == 0xDDAF35A193617ABA && t.h[7] == 0x2A9AC94FA54CA49F && t.status.word == 0 && t.tcnt == 80) =
        true := by decide +kernel

/-- E10: TCNT = 79. -/
theorem test_cfinal_sequence : after (exec .cfinal (started 79)) (fun t => t.status.word == 0x604) = true := by
  decide +kernel

/-- P5, COMPRESS on the schedule of "abc". -/
theorem test_compress_abc :
    after (exec .compress { ready 3 with w := schedule abcBlock }) (fun t =>
      t.h[0] == 0xDDAF35A193617ABA && t.h[7] == 0x2A9AC94FA54CA49F && t.tcnt == 80 &&
        t.wr.a == 0x73A54F399FA4B1B2 && t.wr.h == 0xCEB9FC3691CE8326) = true := by decide +kernel

/-- The example of R169. -/
theorem test_block_abc :
    after (exec .block abcPadded) (fun t => t.h[0] == 0xDDAF35A193617ABA && t.bidx == 1 && t.blk == abcBlock) = true := by
  decide +kernel

/-- E5: BIDX = NBLK. -/
theorem test_block_length :
    after (exec .block { abcPadded with bidx := 1 }) (fun t => t.status.word == 0x100 && t.bidx == 1) = true := by
  decide +kernel

/-- The example of R152: H[0] gives the first eight digest bytes. -/
theorem test_finish :
    after (exec .finish { ready 3 with h := (initialHash .v512).set 0 0xDDAF35A193617ABA }) (fun t =>
      t.dbuf.toList.take 8 == [0xDD, 0xAF, 0x35, 0xA1, 0x93, 0x61, 0x7A, 0xBA] && t.status.word == 0x002) = true := by
  decide +kernel

/-- V2 (P1): SHA-512 of "abc", from an engine that has run nothing. -/
theorem test_digest_abc :
    after (exec (.digest 512) { tiny with mlen := 3, msg := abc.msg }) (fun t =>
      t.dbuf.toList.take 4 == [0xDD, 0xAF, 0x35, 0xA1] && t.dbuf.toList.drop 60 == [0xA5, 0x4C, 0xA4, 0x9F] &&
        t.status.word == 0x002 && t.bidx == 1 && t.plen == 128) = true := by decide +kernel

/-- E7: the exact PLEN 2^64 + 128 is compared. -/
theorem test_digest_capacity :
    after (exec (.digest 512) { tiny with mlen := 0xFFFFFFFFFFFFFFFF }) (fun t => t.status.word == 0x400) = true := by
  decide +kernel

/-! ### The frame, the host and the engine's timing -/

/-- E14 to E16: the gate ignores, INIT clears, an illegal word with DIGEST's opcode clears and raises. -/
theorem test_gate :
    after (exec .pad latched) (fun t => t.status.word == 0x200) = true ∧
      after (exec (.init 256) latched) (fun t => t.status.word == 0x000 && t.outlen == 32) = true ∧
      after (performPending (pending 0x0000_0001_0000_000B [] latched)) (fun t => t.status.word == 0x500) = true := by
  decide +kernel

/-- E19: every access of it gets BUSERR. -/
theorem test_bus_errors :
    ([.read .bits64 0x004, .read .bits64 0x050, .read .bits8 0x008, .read .bits8 0x10100, .read .bits32 0x008] :
        List Access).all (fun a => (hostAccess a tiny).reply == some (.read 0 true)) = true ∧
      ([.write .bits8 0x1000 1, .write .bits64 0x1000 0, .write .bits8 0xFFFF 0] : List Access).all
        (fun a => (hostAccess a tiny).reply == some (.written true)) = true := by decide +kernel

/-- E20: writes to read-only registers. -/
theorem test_read_only :
    ([(0x010, 224), (0x008, 0xFFF), (0x0C0, 5), (0x200, 5), (0x048, 0)] : List (Word × Word)).all (fun p =>
      hostAccess (.write .bits64 p.1 p.2) (ready 0) == { ready 0 with reply := some (.written false) }) = true := by
  decide +kernel

/-- B2: a CMD write while INIT 512 runs is dropped and CMDOVR survives (the vector's outcome, with the start turn of
assumption 5), and with no early start the command's frame clears it. -/
theorem test_cmd_overrun :
    after (Host.Core.run core 3 (pending 0x0000_0000_0200_0001
        [.start, .access (.write .bits64 0x000 0x0000_0000_0100_0001), .engine] tiny))
      (fun t => t.status.word == 0x008 && t.variant == 512) = true ∧
    after (Host.Core.run core 2 (pending 0x0000_0000_0200_0001
        [.access (.write .bits64 0x000 0x0000_0000_0100_0001), .engine] tiny))
      (fun t => t.status.word == 0x000 && t.variant == 512) = true := by decide +kernel

/-- B3: an MSG write while a command runs is dropped and WROVR survives. -/
theorem test_write_overrun :
    after (Host.Core.run core 3 (pending 0x0000_0000_0200_0001
        [.start, .access (.write .bits8 0x10000 0x78), .engine] abc))
      (fun t => t.status.word == 0x010 && msgByte t 0 == 0x61) = true := by decide +kernel

/-! ### Witnesses: encoding and functions -/

theorem witness_TabulatedWordsDecode :
    (Instr.round 65535).wellFormed = true ∧
      (Instr.digest 224, 0x0000000000E0000B) ∈ [((.digest 224 : Instr), (0x0000000000E0000B : Word))] := by decide

theorem witness_DecodeOfEncode :
    (Instr.init 0).wellFormed = true ∧ (Instr.digest 65535).wellFormed = true := by decide

theorem witness_DecodesExactlyLegalWords :
    decode 0x0000_0000_FFFF_0006 = .ok (.round 65535) ∧ decode 0x0000_0000_0000_0001 = .ok (.init 0) := by decide

theorem witness_StepRunsDecodedCommand :
    (∃ i, (pending 0x04 [.engine, .reset] (ready 3)).status.busy = true ∧
      (pending 0x04 [.engine, .reset] (ready 3)).turns = .engine :: [.reset] ∧
      decode (pending 0x04 [.engine, .reset] (ready 3)).pend = .ok i) ∧
    ∃ i, (pending 0x04 [] (ready 3)).status.busy = true ∧ (pending 0x04 [] (ready 3)).turns = [] ∧
      decode (pending 0x04 [] (ready 3)).pend = .ok i :=
  ⟨⟨.sched, by decide⟩, ⟨.sched, by decide⟩⟩

/-- The three clauses, at the reserved opcodes on both sides of the legal ones. -/
theorem witness_IllegalWordRaisesIllegalCommand :
    (∃ s : State, s = pending 0x0C [] (ready 3) ∧ s.begun = false ∧ legalWord s.pend = false ∧
      opcOf s.pend ≠ 0x01 ∧ opcOf s.pend ≠ 0x0B ∧ s.status.errcode = 0) ∧
    (∃ s : State, s = pending 0x00 [] latched ∧ s.begun = false ∧ legalWord s.pend = false ∧
      opcOf s.pend ≠ 0x01 ∧ opcOf s.pend ≠ 0x0B ∧ s.status.errcode ≠ 0) ∧
    (∃ s : State, s = pending 0x0000_0001_0000_000B [] latched ∧ s.begun = false ∧ legalWord s.pend = false ∧
      opcOf s.pend = 0x0B) ∧
    ∃ s : State, s = pending 0x0000_0000_0000_0101 [] tiny ∧ s.begun = false ∧ legalWord s.pend = false ∧
      opcOf s.pend = 0x01 :=
  ⟨⟨_, rfl, by decide⟩, ⟨_, rfl, by decide⟩, ⟨_, rfl, by decide⟩, ⟨_, rfl, by decide⟩⟩

theorem witness_WordOperationsByBits : (0 < 1 ∧ 1 < 64) ∧ (0 < 63 ∧ 63 < 64) := by decide

theorem witness_ScheduleRecurrence : (15 < 16) ∧ (16 ≤ 16 ∧ 16 < 80) ∧ (16 ≤ 79 ∧ 79 < 80) := by decide

/-- The source's boundary: 111 bytes pad to one block, 112 to two (R110). -/
theorem witness_PaddedLengthIsLeast :
    (1024 ∣ 1024 ∧ 8 * 111 + 1 + 128 ≤ 1024) ∧ (1024 ∣ 2048 ∧ 8 * 112 + 1 + 128 ≤ 2048) ∧
      paddedLength 111 = 128 ∧ paddedLength 112 = 256 := by decide

theorem witness_PadOfMessageProperties : 8 * ([0x61, 0x62, 0x63] : List Byte).length < 2 ^ 128 := by decide

theorem witness_RoundConstantsAreCubeRoots : (2, 0) ∈ ([2, 3] : List Nat).zipIdx ∧ (3, 1) ∈ ([2, 3] : List Nat).zipIdx := by
  decide

theorem witness_InitialHashDefinitions :
    (2, 0x6A09E667F3BCC908) ∈ ([2, 3, 5, 7, 11, 13, 17, 19] : List Nat).zip (initialHash .v512).toList := by decide

theorem witness_LegalSelectorsAreFour : variantOf 224 = some .v224 ∧ variantOf 512 = some .v512 := by decide

/-! ### Witnesses: the commands -/

theorem witness_InitChecksAndEffects :
    tiny.begun = false ∧ latched.begun = false ∧ 0 ∉ ([224, 256, 384, 512] : List Nat) ∧
      225 ∉ ([224, 256, 384, 512] : List Nat) ∧ 65535 ∉ ([224, 256, 384, 512] : List Nat) := by decide

/-- 239 bytes are the most that fit 256 (E6); each check at its boundary. -/
theorem witness_PadChecksAndEffects :
    (tiny.status.errcode = 0 ∧ tiny.variant = 0) ∧
      ((ready 240).status.errcode = 0 ∧ (ready 240).variant ≠ 0 ∧
        (ready 240).capacity.toNat < paddedLength (ready 240).mlen.toNat) ∧
      ((ready 239).status.errcode = 0 ∧ (ready 239).variant ≠ 0 ∧
        paddedLength (ready 239).mlen.toNat ≤ (ready 239).capacity.toNat) ∧
      ((ready 0).mlen.toNat < 111 ∧ 111 < paddedLength (ready 0).mlen.toNat - 16) ∧ 15 < 16 := by decide

theorem witness_PadTwiceIsPad :
    abc.status.errcode = 0 ∧ abc.variant ≠ 0 ∧ paddedLength abc.mlen.toNat ≤ abc.capacity.toNat ∧ Mem.wf abc.msg := by
  decide

theorem witness_LoadblkChecksAndEffects :
    (tiny.status.errcode = 0 ∧ tiny.variant = 0) ∧
      (lastBlock.status.errcode = 0 ∧ lastBlock.variant ≠ 0 ∧ lastBlock.nblk.toNat ≤ (2 : Word).toNat) ∧
      (lastBlock.bidx.toNat < lastBlock.nblk.toNat ∧ lastBlock.plen.toNat % 128 = 0 ∧
        128 * lastBlock.bidx.toNat + 128 ≤ lastBlock.capacity.toNat) ∧ 15 < 16 ∧ 7 < 8 := by decide

theorem witness_SchedChecksAndEffects :
    (tiny.status.errcode = 0 ∧ tiny.variant = 0) ∧
      ((started 80).status.errcode = 0 ∧ (started 80).status.cact = true) ∧
      ((ready 3).status.errcode = 0 ∧ (ready 3).variant ≠ 0 ∧ (ready 3).status.cact = false) := by decide

theorem witness_CstartChecksAndEffects :
    (tiny.status.errcode = 0 ∧ tiny.variant = 0) ∧
      ((started 80).status.errcode = 0 ∧ (started 80).status.cact = true) ∧
      ((ready 3).status.errcode = 0 ∧ (ready 3).variant ≠ 0 ∧ (ready 3).status.cact = false) := by decide

theorem witness_RoundOneFollowsFormula :
    (0 < 80 ∧ (started 0).status.errcode = 0 ∧ (started 0).variant ≠ 0 ∧ (started 0).status.cact = true ∧
      (started 0).tcnt.toNat = 0) ∧
    (79 < 80 ∧ (started 79).status.errcode = 0 ∧ (started 79).variant ≠ 0 ∧ (started 79).status.cact = true ∧
      (started 79).tcnt.toNat = 79) := by decide

theorem witness_RoundChecksAndEffects :
    (tiny.status.errcode = 0 ∧ tiny.variant = 0) ∧
      ((started 79).status.errcode = 0 ∧ 80 < (started 79).tcnt.toNat + 2) ∧
      ((started 0).status.errcode = 0 ∧ (started 0).variant ≠ 0 ∧ (started 0).status.cact = true ∧ 1 ≤ 80 ∧
        (started 0).tcnt.toNat + 80 ≤ 80) ∧
      ((started 79).variant ≠ 0 ∧ (started 79).status.cact = true ∧ 1 ≤ 1 ∧ (started 79).tcnt.toNat + 1 ≤ 80) := by
  decide

theorem witness_CfinalChecksAndEffects :
    ((ready 3).status.errcode = 0 ∧ (ready 3).status.cact = false) ∧
      ((started 79).status.errcode = 0 ∧ (started 79).tcnt ≠ 80) ∧
      ((started 80).status.errcode = 0 ∧ (started 80).variant ≠ 0 ∧ (started 80).status.cact = true ∧
        (started 80).tcnt = 80) := by decide

theorem witness_CompressChecksAndEffects :
    (tiny.status.errcode = 0 ∧ tiny.variant = 0) ∧
      ((started 80).status.errcode = 0 ∧ (started 80).status.cact = true) ∧
      ((ready 3).status.errcode = 0 ∧ (ready 3).variant ≠ 0 ∧ (ready 3).status.cact = false) := by decide

theorem witness_BlockChecksAndEffects :
    (tiny.status.errcode = 0 ∧ tiny.variant = 0) ∧
      (lastBlock.status.errcode = 0 ∧ lastBlock.variant ≠ 0 ∧ lastBlock.status.cact = false ∧
        lastBlock.nblk.toNat ≤ (2 : Word).toNat) ∧
      (lastBlock.bidx.toNat < lastBlock.nblk.toNat ∧
        128 * lastBlock.bidx.toNat + 128 ≤ lastBlock.capacity.toNat) := by decide

/-- Three blocks claimed where MSG holds two; no reachable state does this. -/
theorem witness_BlockOutsideMsgStops :
    ∃ s : State, s = { lastBlock with plen := 384, nblk := 3, bidx := 2 } ∧ s.status.errcode = 0 ∧ s.variant ≠ 0 ∧
      s.bidx.toNat < s.nblk.toNat ∧ s.capacity.toNat < 128 * s.bidx.toNat + 128 ∧ s.plen.toNat % 128 = 0 ∧
      s.status.cact = false :=
  ⟨_, rfl, by decide⟩

theorem witness_FinishChecksAndEffects :
    (tiny.status.errcode = 0 ∧ tiny.variant = 0) ∧
      ((started 80).status.errcode = 0 ∧ (started 80).status.cact = true) ∧
      ((ready 3).status.errcode = 0 ∧ (ready 3).variant ≠ 0 ∧ (ready 3).status.cact = false) := by decide

theorem witness_DigestChecksAndEffects :
    tiny.begun = false ∧ 225 ∉ ([224, 256, 384, 512] : List Nat) ∧
      (ready 240).capacity.toNat < paddedLength (ready 240).mlen.toNat ∧
      paddedLength (ready 239).mlen.toNat ≤ (ready 239).capacity.toNat ∧
      paddedLength (ready 0).mlen.toNat ≤ (ready 0).capacity.toNat := by decide

/-- The hypotheses and both bounds of the DOUT window. -/
theorem witness_DigestReadsBack :
    (∃ t, exec (.digest (variantBits .v512)) (ready 239) = .next t ∧ (t.status.errcode == 0) = true) ∧ 0 < 64 ∧ 63 < 64 :=
  ⟨exists_of_after (by decide +kernel), by decide, by decide⟩

/-- Two engines with one message, whose other registers, and whose MSG past the message, differ. -/
theorem witness_DigestIsFunctionOfMessage :
    ∃ s s' : State, s = abc ∧ s' = { started 40 with msg := [(0, 0x61), (1, 0x62), (2, 0x63), (200, 0x5A)] } ∧
      s.mlen = s'.mlen ∧ ((List.range s.mlen.toNat).all fun a => msgByte s a == msgByte s' a) = true ∧
      (∃ t, exec (.digest (variantBits .v384)) s = .next t ∧ (t.status.errcode == 0) = true) ∧
      ∃ t, exec (.digest (variantBits .v384)) s' = .next t ∧ (t.status.errcode == 0) = true :=
  ⟨_, _, rfl, rfl, by decide, by decide +kernel, exists_of_after (by decide +kernel), exists_of_after (by decide +kernel)⟩

theorem witness_RoundsAndCompressSplit :
    ((started 0).status.errcode = 0 ∧ (started 0).variant ≠ 0 ∧ (started 0).status.cact = true ∧ 1 ≤ 79 ∧ 1 ≤ 1 ∧
      (started 0).tcnt.toNat + 79 + 1 ≤ 80) ∧
    ((ready 3).status.errcode = 0 ∧ (ready 3).variant ≠ 0 ∧ (ready 3).status.cact = false) := by decide

theorem ready_inv : (ready 3).Inv where
  variant_legal := by decide
  outlen_eq := by decide
  plen_eq := by decide
  plen_fits := by decide
  tcnt_le := by decide
  errcode_legal := by decide
  error_not_done := by decide
  done_variant := by decide
  cact_variant := by decide
  capacity_mod := by decide
  capacity_ge := by decide
  capacity_le := by decide
  msg_wf := by decide
  msg_inside := by decide

theorem lastBlock_inv : lastBlock.Inv where
  variant_legal := by decide
  outlen_eq := by decide
  plen_eq := by decide
  plen_fits := by decide
  tcnt_le := by decide
  errcode_legal := by decide
  error_not_done := by decide
  done_variant := by decide
  cact_variant := by decide
  capacity_mod := by decide
  capacity_ge := by decide
  capacity_le := by decide
  msg_wf := by decide
  msg_inside := by decide

theorem witness_BlockSplits :
    lastBlock.Inv ∧ lastBlock.status.errcode = 0 ∧ lastBlock.variant ≠ 0 ∧ lastBlock.status.cact = false ∧
      lastBlock.bidx.toNat < lastBlock.nblk.toNat :=
  ⟨lastBlock_inv, by decide⟩

theorem witness_DigestSplits :
    paddedLength (ready 239).mlen.toNat ≤ (ready 239).capacity.toNat ∧
      (ready 240).capacity.toNat < paddedLength (ready 240).mlen.toNat := by decide

/-! ### Witnesses: errors -/

/-- Both sides: ROUND 81 raises SequenceError, ROUND 1 does not; and INIT with an error latched never does. -/
theorem witness_SequenceErrorExactly :
    ((started 0).status.errcode = 0 ∧
      ∃ t, exec (.round 81) (started 0) = .next t ∧ (t.status.errcode == 6) = true) ∧
    ((started 79).status.errcode = 0 ∧
      ∃ t, exec (.round 1) (started 79) = .next t ∧ (t.status.errcode == 0) = true) ∧
    (clearsErrors (.init 300) = true ∧ ∃ t, exec (.init 300) latched = .next t ∧ (t.status.errcode == 2) = true) :=
  ⟨⟨by decide, exists_of_after (by decide +kernel)⟩, ⟨by decide, exists_of_after (by decide +kernel)⟩,
    ⟨by decide, exists_of_after (by decide +kernel)⟩⟩

/-- One witness for each code. -/
theorem witness_OtherErrorsExactly :
    (∃ t, exec .block { lastBlock with bidx := 2 } = .next t ∧ (t.status.errcode == 1) = true) ∧
      (∃ t, exec (.digest 225) (ready 3) = .next t ∧ (t.status.errcode == 2) = true) ∧
      (∃ t, exec .pad (ready 240) = .next t ∧ (t.status.errcode == 4) = true) ∧
      (∃ t, exec .pad (ready 239) = .next t ∧ (t.status.errcode == 0) = true) :=
  ⟨exists_of_after (by decide +kernel), exists_of_after (by decide +kernel), exists_of_after (by decide +kernel),
    exists_of_after (by decide +kernel)⟩

/-- A command that raises, and one the gate ignores. -/
theorem witness_ErrorsArePrecise :
    (∃ t, exec .pad (ready 240) = .next t ∧ (t.status.errcode != 0) = true) ∧
      (∃ t, exec .finish latched = .next t ∧ (t.status.errcode != 0) = true) ∧ clearsErrors .pad = false :=
  ⟨exists_of_after (by decide +kernel), exists_of_after (by decide +kernel), rfl⟩

theorem witness_ErrorGateIgnores :
    latched.status.errcode ≠ 0 ∧ clearsErrors .finish = false ∧
      (pending 0x0C [] latched).status.errcode ≠ 0 ∧ opcOf (pending 0x0C [] latched).pend ≠ 0x01 ∧
      opcOf (pending 0x0C [] latched).pend ≠ 0x0B := by decide

/-- INIT 256 with no move left, and a reset. -/
theorem witness_OnlyRestartOrResetClearsError :
    (∃ t, step (pending 0x0000_0000_0100_0001 [] latched) = .next t ∧ (t.status.errcode == 0) = true) ∧
      (∃ t, step { latched with turns := [.reset] } = .next t ∧ (t.status.errcode == 0) = true) ∧
      latched.status.errcode ≠ 0 :=
  ⟨exists_of_after (by decide +kernel), exists_of_after (by decide +kernel), by decide⟩

/-- A pending illegal word, and an idle engine. -/
theorem witness_EngineMoveEndsBusyOrIdles :
    ((pending 0x0C [] tiny).turns = [] ∧
      ∃ t, step (pending 0x0C [] tiny) = .next t ∧ (t.status.errcode == 5) = true) ∧
    (({ tiny with turns := [.engine] } : State).turns.head? = some .engine ∧
      (∃ t, step { tiny with turns := [.engine] } = .next t ∧ (t.status.errcode == 0) = true) ∧
      ({ tiny with turns := [.engine] } : State).status.busy = false) :=
  ⟨⟨rfl, exists_of_after (by decide +kernel)⟩, ⟨rfl, exists_of_after (by decide +kernel), rfl⟩⟩

/-! ### Witnesses: registers and host accesses -/

theorem witness_OnlyInitDigestChangeVariant :
    (∃ t, step (pending 0x0000_0000_0100_0001 [.engine] (ready 3)) = .next t ∧ (t.variant != 512 && t.outlen != 64) = true) ∧
      ∃ t, step { ready 3 with turns := [.reset] } = .next t ∧ (t.variant != 512) = true :=
  ⟨exists_of_after (by decide +kernel), exists_of_after (by decide +kernel)⟩

theorem witness_OnlyHostChangesMlen :
    (∃ t, step { ready 3 with turns := [.access (.write .bits64 0x020 4)] } = .next t ∧ (t.mlen != 3) = true) ∧
      ∃ t, step { ready 3 with turns := [.reset] } = .next t ∧ (t.mlen != 3) = true :=
  ⟨exists_of_after (by decide +kernel), exists_of_after (by decide +kernel)⟩

theorem witness_CapacityIsConstant :
    ∃ t, step { ready 3 with turns := [.access (.write .bits64 0x048 0)] } = .next t ∧ (t.capacity == 256) = true :=
  exists_of_after (by decide +kernel)

theorem witness_RegisterMapIsExact :
    regAt 0x000 = some .cmd ∧ regAt 0x0C0 = some (.wr 0) ∧ regAt 0x178 = some (.blk 15) ∧ regAt 0x478 = some (.w 79) ∧
      regAt 0x480 = none ∧ regAt 0x050 = none ∧ regAt 0x180 = none := by decide

theorem witness_CommandWriteIsAccepted :
    (ready 3).status.busy = false ∧ (pending 0x04 [] (ready 3)).status.busy = true := by decide

theorem witness_ReadOnlyWritesIgnored :
    (ready 3).status.busy = false ∧
      Reg.status ∈ ([.status, .variant, .outlen, .plen, .nblk, .tcnt, .capacity] : List Reg) ∧
      (∃ i, Reg.wr 7 = .wr i) ∧ ∃ t, Reg.w 79 = .w t :=
  ⟨by decide, by decide, ⟨7, rfl⟩, ⟨79, rfl⟩⟩

theorem witness_RegisterReadsBack :
    (ready 3).status.busy = false ∧ Reg.mlen = .mlen ∧ Reg.bidx = .bidx ∧ (∃ i, Reg.h 7 = .h i) ∧ (∃ i, Reg.blk 15 = .blk i) ∧
      ∃ t, t = hostAccess (.write .bits64 (BitVec.ofNat 64 (regOffset (.blk 15))) 5) (ready 3) :=
  ⟨by decide, rfl, rfl, ⟨7, rfl⟩, ⟨15, rfl⟩, ⟨_, rfl⟩⟩

theorem witness_MsgReadAndWrite :
    abc.status.busy = false ∧ 0 < abc.capacity.toNat ∧ 255 < abc.capacity.toNat ∧ abc.capacity.toNat ≤ 2 ^ 48 := by decide

theorem witness_DoutWindowMasksDigest : 0 < 64 ∧ 63 < 64 ∧ (ready 3).status.busy = false := by decide

/-- A misaligned offset with BUSY = 1, the first byte past MSG, a wrong width, and a write to DOUT (for which the read's own premise
is not asked). -/
theorem witness_BusErrorChangesNothing :
    (pending 0x04 [] tiny).status.busy = true ∧
    (¬ (Width.bits64 = .bits64 ∧ ∃ r, (0x004 : Word).toNat = regOffset r) ∧
      ¬ (Width.bits64 = .bits8 ∧ 0x10000 ≤ (0x004 : Word).toNat ∧
        (0x004 : Word).toNat < 0x10000 + (pending 0x04 [] tiny).capacity.toNat) ∧
      ¬ (Width.bits64 = .bits8 ∧ 0x1000 ≤ (0x004 : Word).toNat ∧ (0x004 : Word).toNat < 0x1040)) ∧
    (¬ (Width.bits8 = .bits64 ∧ ∃ r, (0x10100 : Word).toNat = regOffset r) ∧
      ¬ (Width.bits8 = .bits8 ∧ 0x10000 ≤ (0x10100 : Word).toNat ∧
        (0x10100 : Word).toNat < 0x10000 + tiny.capacity.toNat) ∧
      ¬ (Width.bits8 = .bits8 ∧ 0x1000 ≤ (0x10100 : Word).toNat ∧ (0x10100 : Word).toNat < 0x1040)) ∧
    (¬ (Width.bits32 = .bits64 ∧ ∃ r, (0x008 : Word).toNat = regOffset r) ∧
      ¬ (Width.bits32 = .bits8 ∧ 0x10000 ≤ (0x008 : Word).toNat ∧
        (0x008 : Word).toNat < 0x10000 + tiny.capacity.toNat) ∧
      ¬ (Width.bits32 = .bits8 ∧ 0x1000 ≤ (0x008 : Word).toNat ∧ (0x008 : Word).toNat < 0x1040)) ∧
    (¬ (Width.bits8 = .bits64 ∧ ∃ r, (0x1000 : Word).toNat = regOffset r) ∧
      ¬ (Width.bits8 = .bits8 ∧ 0x10000 ≤ (0x1000 : Word).toNat ∧
        (0x1000 : Word).toNat < 0x10000 + tiny.capacity.toNat)) := by
  have misaligned (r : Reg) : (0x004 : Word).toNat ≠ regOffset r := by
    cases r <;> simp [regOffset] <;> omega
  refine ⟨by decide, ⟨?_, by decide, by decide⟩, ⟨?_, by decide, by decide⟩, ⟨?_, by decide, by decide⟩, ?_, by decide⟩
  · rintro ⟨_, r, h⟩
    exact misaligned r h
  all_goals
    rintro ⟨h, _⟩
    cases h

theorem witness_BusyWritesAreDropped :
    (pending 0x04 [] tiny).status.busy = true ∧ Reg.mlen ≠ .cmd ∧ 0x10000 ≤ (0x10000 : Word).toNat ∧
      (0x100FF : Word).toNat < 0x10000 + (pending 0x04 [] tiny).capacity.toNat := by decide

theorem witness_BusyReadsAreDraws :
    (pending 0x04 [] tiny).status.busy = true ∧ (63 ≠ 0 ∧ 63 ≠ 3 ∧ 63 ≠ 4) ∧ Reg.w 79 ≠ .status ∧ Reg.w 79 ≠ .capacity ∧
      (0x1000 ≤ (0x103F : Word).toNat ∧ (0x103F : Word).toNat < 0x1040) ∧
      (0x10000 ≤ (0x100FF : Word).toNat ∧
        (0x100FF : Word).toNat < 0x10000 + (pending 0x04 [] tiny).capacity.toNat) := by decide

theorem witness_ReadsHaveNoSideEffect : tiny.status.busy = false := by decide

/-- A dropped INIT while DIGEST is pending, and a free read. -/
theorem witness_BusyAccessLeavesCommandAlone :
    (pending 0x0000_0000_0100_0001 [] latched).status.busy = true ∧
      ∃ t, performPending (pending 0x0000_0000_0100_0001 [] latched) = .next t ∧ (t.status.errcode == 0) = true :=
  ⟨by decide, exists_of_after (by decide +kernel)⟩

/-- INIT 512 started early, and a write dropped after the start. -/
theorem witness_EarlyStartKeepsOverruns :
    ∃ s : State, s = hostAccess (.write .bits64 0x020 9) (startPending (pending 0x0000_0000_0200_0001 [] tiny)) ∧
      (s.begun = true ∧ opcOf s.pend = 0x01 ∧ s.status.wrovr = true) ∧
      ∃ t, performPending { s with begun := false } = .next t ∧ (t.variant == 512) = true :=
  ⟨_, rfl, by decide, exists_of_after (by decide +kernel)⟩

/-! ### Witnesses: reset, invariant, safety -/

theorem witness_ResetEventRestoresReset :
    (pending 0x04 [.reset, .engine] (ready 3)).turns = .reset :: [.engine] := by decide

theorem witness_StepKeepsInvariant :
    (ready 3).Inv ∧ ∃ t, step (ready 3) = .next t ∧ (t.variant == 512) = true :=
  ⟨ready_inv, exists_of_after (by decide +kernel)⟩

theorem witness_InvariantStatesNeverStop : lastBlock.Inv := lastBlock_inv

end Sys2Proof.Tests
end

/-! SUPPORT. What performing the pending command can do (spec 43_commands.md R160 to R171): one inversion lemma for the command
that acts, and the frame of R160 around every word, legal or not. -/

namespace Sys2Proof.Machine

/-! ### A pause for the check, not a claim

Lean elaborates the proofs below beside the kernel's check of the tests above, whose waiting threads alone come near check.sh's
memory limit. An `example` is elaborated before the command after it, so that this one lets the proofs start past that peak. -/

set_option linter.unusedTactic false in
example : True := by
  sleep 10000
  trivial

/-! ### A command that acts -/

/-- Command `i` passes its checks in the state `s`, and its effects give the state `u` (R161 to R171). -/
def Acts (i : Instr) (s u : State) : Prop :=
  match i with
  | .init v => ∃ x, v = variantBits x ∧ u = loadVariant x s
  | .pad => s.variant ≠ 0 ∧ paddedLength s.mlen.toNat ≤ s.capacity.toNat ∧ u = padMessage s
  | .loadblk => s.variant ≠ 0 ∧ u = loadBlock s
  | .sched => s.variant ≠ 0 ∧ u = expandBlock s
  | .cstart => s.variant ≠ 0 ∧ u = startCompression s
  | .round n => s.variant ≠ 0 ∧ s.tcnt.toNat + n ≤ 80 ∧ u = advanceRounds n s
  | .cfinal => s.variant ≠ 0 ∧ u = finishCompression s
  | .compress => s.variant ≠ 0 ∧ u = compressBlock s
  | .block => s.variant ≠ 0 ∧ u = processBlock s
  | .finish => s.variant ≠ 0 ∧ u = writeDigest s
  | .digest v => ∃ x, v = variantBits x ∧ paddedLength s.mlen.toNat ≤ s.capacity.toNat ∧ u = digestMessage x s

/-- Everything the body of a command can do: act, raise an error, or, for a block outside MSG, stop the machine. -/
theorem bodyOf_cases (i : Instr) (s : State) :
    (∃ u, bodyOf i s = .acted u ∧ Acts i s u) ∨ (∃ e, bodyOf i s = .raised e) ∨
      bodyOf i s = .stopped .blockOutsideMsg ∧ s.bidx.toNat < s.nblk.toNat ∧
        s.capacity.toNat < 128 * s.bidx.toNat + 128 := by
  cases i with
  | init v =>
    obtain ⟨-, hb⟩ | ⟨x, rfl, hb⟩ := initBody_cases v s
    · exact .inr (.inl ⟨_, hb⟩)
    · exact .inl ⟨_, hb, x, rfl, rfl⟩
  | pad =>
    obtain ⟨-, hb⟩ | ⟨-, -, hb⟩ | ⟨hv, hfit, hb⟩ := padBody_cases s
    · exact .inr (.inl ⟨_, hb⟩)
    · exact .inr (.inl ⟨_, hb⟩)
    · exact .inl ⟨_, hb, hv, hfit, rfl⟩
  | loadblk =>
    obtain ⟨-, hb⟩ | ⟨-, -, hb⟩ | ⟨-, hlt, -, hout, hb⟩ | ⟨hv, -, -, -, hb⟩ := loadblkBody_cases s
    · exact .inr (.inl ⟨_, hb⟩)
    · exact .inr (.inl ⟨_, hb⟩)
    · exact .inr (.inr ⟨hb, hlt, hout⟩)
    · exact .inl ⟨_, hb, hv, rfl⟩
  | sched =>
    obtain ⟨-, hb⟩ | ⟨hv, -, hb⟩ := schedBody_cases s
    · exact .inr (.inl ⟨_, hb⟩)
    · exact .inl ⟨_, hb, hv, rfl⟩
  | cstart =>
    obtain ⟨-, hb⟩ | ⟨hv, -, hb⟩ := cstartBody_cases s
    · exact .inr (.inl ⟨_, hb⟩)
    · exact .inl ⟨_, hb, hv, rfl⟩
  | round n =>
    obtain ⟨-, hb⟩ | ⟨hv, -, -, hn, hb⟩ := roundBody_cases n s
    · exact .inr (.inl ⟨_, hb⟩)
    · exact .inl ⟨_, hb, hv, hn, rfl⟩
  | cfinal =>
    obtain ⟨-, hb⟩ | ⟨hv, -, -, hb⟩ := cfinalBody_cases s
    · exact .inr (.inl ⟨_, hb⟩)
    · exact .inl ⟨_, hb, hv, rfl⟩
  | compress =>
    obtain ⟨-, hb⟩ | ⟨hv, -, hb⟩ := compressBody_cases s
    · exact .inr (.inl ⟨_, hb⟩)
    · exact .inl ⟨_, hb, hv, rfl⟩
  | block =>
    obtain ⟨-, hb⟩ | ⟨-, -, -, hb⟩ | ⟨-, -, hlt, hout, hb⟩ | ⟨hv, -, -, -, hb⟩ := blockBody_cases s
    · exact .inr (.inl ⟨_, hb⟩)
    · exact .inr (.inl ⟨_, hb⟩)
    · exact .inr (.inr ⟨hb, hlt, hout⟩)
    · exact .inl ⟨_, hb, hv, rfl⟩
  | finish =>
    obtain ⟨-, hb⟩ | ⟨hv, -, hb⟩ := finishBody_cases s
    · exact .inr (.inl ⟨_, hb⟩)
    · exact .inl ⟨_, hb, hv, rfl⟩
  | digest v =>
    obtain ⟨-, hb⟩ | ⟨x, -, -, hb⟩ | ⟨x, rfl, hfit, hb⟩ := digestBody_cases v s
    · exact .inr (.inl ⟨_, hb⟩)
    · exact .inr (.inl ⟨_, hb⟩)
    · exact .inl ⟨_, hb, x, rfl, hfit, rfl⟩

theorem acts_of_bodyOf {i : Instr} {s u : State} (h : bodyOf i s = .acted u) : Acts i s u := by
  obtain ⟨v, hb, hv⟩ | ⟨e, hb⟩ | ⟨hb, -⟩ := bodyOf_cases i s <;> cases hb.symm.trans h
  exact hv

/-! ### The values a command writes -/

theorem errorCode_legal (e : ErrorName) : errorCode e ∈ ([0, 1, 2, 4, 5, 6] : List (BitVec 4)) := by
  cases e <;> decide

theorem variantBits_legal (x : Variant) : variantBits x ∈ ([224, 256, 384, 512] : List Nat) := by
  cases x <;> decide

theorem variantWord_legal (x : Variant) :
    BitVec.ofNat 64 (variantBits x) ∈ ([0, 224, 256, 384, 512] : List Word) := by
  cases x <;> decide

theorem variantWord_ne_zero (x : Variant) : BitVec.ofNat 64 (variantBits x) ≠ 0 := by
  cases x <;> decide

theorem variantWord_toNat (x : Variant) : (BitVec.ofNat 64 (variantBits x)).toNat = variantBits x := by
  cases x <;> rfl

theorem outlenWord_toNat (x : Variant) :
    (BitVec.ofNat 64 (variantBytes x)).toNat = (BitVec.ofNat 64 (variantBits x)).toNat / 8 := by
  cases x <;> rfl

/-! ### The pending word -/

/-- A command without an operand is decoded as the command given, or not at all. -/
theorem decodeNoOperand_ok {w : Word} {i j : Instr} (h : decodeNoOperand w i = .ok j) : j = i := by
  unfold decodeNoOperand at h
  split at h
  · exact (Except.ok.inj h).symm
  · cases h

/-- A word is decoded as a command of its own opcode (R84, R87). -/
theorem opcodeOf_decode {w : Word} {i : Instr} (h : decode w = .ok i) : opcodeOf i = opcOf w := by
  unfold decode at h
  split at h
  · cases h
  split at h
  · cases h
  apply BitVec.eq_of_toNat_eq
  unfold decodeOpcode at h
  split at h
  case h_1 hw => cases h; exact hw.symm
  case h_6 hw => cases h; exact hw.symm
  case h_11 hw => cases h; exact hw.symm
  case h_12 => cases h
  all_goals
    rename_i hw
    cases decodeNoOperand_ok h
    exact hw.symm

/-- The checks and effects of a pending word: its command's, or the one error of a word that is not legal (R87, R176). -/
def pendingBody (w : Word) : State → Verdict :=
  match decode w with
  | .ok i => bodyOf i
  | .error _ => fun _ => .raised .illegalCommand

/-- Performing PEND is its body in the frame of R160, under the OPC of the word itself. -/
theorem performPending_eq (s : State) : performPending s = perform (opcOf s.pend) (pendingBody s.pend) s := by
  unfold performPending pendingBody
  cases h : decode s.pend with
  | ok i => exact (exec_eq_body i s).trans (by rw [opcodeOf_decode h])
  | error e => rfl

/-- Only a legal word acts. -/
theorem pendingBody_acted {w : Word} {s u : State} (h : pendingBody w s = .acted u) :
    ∃ i, decode w = .ok i ∧ bodyOf i s = .acted u := by
  unfold pendingBody at h
  cases hd : decode w with
  | ok i => exact ⟨i, rfl, by rwa [hd] at h⟩
  | error e => rw [hd] at h; cases h

/-- A pending word stops the machine only where a command does. -/
theorem pendingBody_stopped {w : Word} {s : State} {f : Fault} (h : pendingBody w s = .stopped f) :
    ∃ i, bodyOf i s = .stopped f := by
  unfold pendingBody at h
  cases hd : decode w with
  | ok i => exact ⟨i, by rwa [hd] at h⟩
  | error e => rw [hd] at h; cases h

/-- A fault comes from the command's own body, after the frame. -/
theorem perform_fault {opc : Byte} {body : State → Verdict} {s : State} {f : Fault}
    (h : perform opc body s = .fault f) : body (openFrame opc s) = .stopped f := by
  unfold perform at h
  split at h
  · cases h
  · split at h
    · cases h
    · cases h
    · cases h; assumption

/-- With the gate open, no error is latched once the frame has been opened (R160, R205). -/
theorem openFrame_errcode {opc : Byte} {s : State} (hg : gateClosed opc s = false) :
    (openFrame opc s).status.errcode = 0 := by
  rw [openFrame_eq]
  cases hr : restarts opc with
  | true => rfl
  | false => simpa [gateClosed, hr] using hg

/-! ### Performing the pending word -/

/-- Everything performing PEND can do (R160): the gate ignores it, or its legal word acts, or it raises an error. -/
theorem performPending_cases {s t : State} (h : performPending s = .next t) :
    t = endCommand s ∨
      (gateClosed (opcOf s.pend) s = false ∧ ∃ i u, decode s.pend = .ok i ∧
        Acts i (openFrame (opcOf s.pend) s) u ∧ t = endCommand u) ∨
      ∃ e, t = endCommand (raiseError e (openFrame (opcOf s.pend) s)) := by
  rw [performPending_eq] at h
  obtain ⟨-, ht⟩ | ⟨hg, u, hb, ht⟩ | ⟨-, e, -, ht⟩ := perform_cases h
  · exact .inl ht
  · obtain ⟨i, hd, hi⟩ := pendingBody_acted hb
    exact .inr (.inl ⟨hg, i, u, hd, acts_of_bodyOf hi, ht⟩)
  · exact .inr (.inr ⟨e, ht⟩)

/-! ### What every command leaves unchanged -/

/-- What DIGEST's blocks and its FINISH leave of the padded state. -/
theorem digestMessage_eq (x : Variant) (s : State) :
    digestMessage x s =
      writeDigest (processBlocks (padMessage (loadVariant x s)).nblk.toNat (padMessage (loadVariant x s))) := rfl

/-- No command changes MLEN or CAPACITY (R33, R36). -/
theorem Acts.frame {i : Instr} {s u : State} (h : Acts i s u) : u.mlen = s.mlen ∧ u.capacity = s.capacity := by
  cases i with
  | init v => obtain ⟨x, -, rfl⟩ := h; exact ⟨rfl, rfl⟩
  | pad => obtain ⟨-, -, rfl⟩ := h; exact ⟨rfl, rfl⟩
  | round n => obtain ⟨-, -, rfl⟩ := h; exact ⟨rfl, rfl⟩
  | digest v =>
    obtain ⟨x, -, -, rfl⟩ := h
    rw [digestMessage_eq, processBlocks_frame]
    exact ⟨rfl, rfl⟩
  | _ => obtain ⟨-, rfl⟩ := h; exact ⟨rfl, rfl⟩

/-- VARIANT and OUTLEN after a command that acts: INIT and DIGEST load them, every other command leaves them (R31, R32). -/
theorem Acts.variant_cases {i : Instr} {s u : State} (h : Acts i s u) :
    (u.variant = s.variant ∧ u.outlen = s.outlen) ∨
      ∃ x, (i = .init (variantBits x) ∨ i = .digest (variantBits x)) ∧ u.variant.toNat = variantBits x := by
  cases i with
  | init v =>
    obtain ⟨x, rfl, rfl⟩ := h
    exact .inr ⟨x, .inl rfl, variantWord_toNat x⟩
  | digest v =>
    obtain ⟨x, rfl, -, rfl⟩ := h
    exact .inr ⟨x, .inr rfl, by rw [digestMessage_eq, processBlocks_frame]; exact variantWord_toNat x⟩
  | pad => obtain ⟨-, -, rfl⟩ := h; exact .inl ⟨rfl, rfl⟩
  | round n => obtain ⟨-, -, rfl⟩ := h; exact .inl ⟨rfl, rfl⟩
  | _ => obtain ⟨-, rfl⟩ := h; exact .inl ⟨rfl, rfl⟩

theorem performPending_frame {s t : State} (h : performPending s = .next t) :
    t.mlen = s.mlen ∧ t.capacity = s.capacity := by
  obtain rfl | ⟨-, i, u, -, hu, rfl⟩ | ⟨e, rfl⟩ := performPending_cases h
  · exact ⟨rfl, rfl⟩
  · simpa using hu.frame
  · simp

/-- Performing PEND leaves VARIANT and OUTLEN, or is an INIT or DIGEST that loads its legal argument (R31). -/
theorem performPending_variant_cases {s t : State} (h : performPending s = .next t) :
    (t.variant = s.variant ∧ t.outlen = s.outlen) ∨
      ∃ x, (decode s.pend = .ok (.init (variantBits x)) ∨ decode s.pend = .ok (.digest (variantBits x))) ∧
        t.variant.toNat = variantBits x := by
  obtain rfl | ⟨-, i, u, hd, hu, rfl⟩ | ⟨e, rfl⟩ := performPending_cases h
  · exact .inl ⟨rfl, rfl⟩
  · obtain ⟨hv, ho⟩ | ⟨x, rfl | rfl, hv⟩ := hu.variant_cases
    · exact .inl ⟨by simpa using hv, by simpa using ho⟩
    · exact .inr ⟨x, .inl hd, hv⟩
    · exact .inr ⟨x, .inr hd, hv⟩
  · exact .inl ⟨by simp, by simp⟩

end Sys2Proof.Machine

/-! SUPPORT. The invariant `State.Inv` (spec 10_state.md R49) holds at reset, every operation keeps it, and no step from it stops the
machine. -/

namespace Sys2Proof.Machine

/-! ### Reset -/

theorem msgBytes_mod : Config.msgBytes % 128 = 0 := Nat.mul_mod_right 128 _

theorem msgBytes_ge : 128 ≤ Config.msgBytes := by unfold Config.msgBytes; omega

theorem msgBytes_le : Config.msgBytes ≤ 2 ^ 48 := by
  have := Config.extraBlocks.isLt
  unfold Config.msgBytes
  omega

theorem reset_capacity_toNat : State.reset.capacity.toNat = Config.msgBytes := by
  have hle := msgBytes_le
  exact Nat.mod_eq_of_lt (show Config.msgBytes < 2 ^ 64 by omega)

theorem reset_inv : State.reset.Inv where
  variant_legal := by decide
  outlen_eq := by decide
  plen_eq := by decide
  plen_fits := Nat.zero_le _
  tcnt_le := by decide
  errcode_legal := by decide
  error_not_done := fun _ => rfl
  done_variant := nofun
  cact_variant := nofun
  capacity_mod := reset_capacity_toNat ▸ msgBytes_mod
  capacity_ge := reset_capacity_toNat ▸ msgBytes_ge
  capacity_le := reset_capacity_toNat ▸ msgBytes_le
  msg_wf := List.Pairwise.nil
  msg_inside := nofun

/-- Settles O57: every register is 0, MSG is empty, and MSG_BYTES keeps the bounds of R9. -/
theorem invariantAtReset : Obligations.InvariantAtReset := reset_inv

/-! ### The command frame -/

section
variable {s : State} (hs : s.Inv)
include hs

theorem endCommand_inv : (endCommand s).Inv := { hs with }

theorem raiseError_inv (e : ErrorName) : (raiseError e s).Inv :=
  { hs with
    errcode_legal := errorCode_legal e
    error_not_done := fun _ => rfl
    done_variant := nofun }

/-- The frame clears DONE but for FINISH, and clears ERRCODE only where it clears DONE as well (R160). -/
theorem openFrame_inv (opc : Byte) : (openFrame opc s).Inv := by
  by_cases hf : opc = 0x0A
  · rw [hf, openFrame_finish]; exact hs
  cases hr : restarts opc with
  | false =>
    rw [openFrame_plain hr hf]
    exact { hs with error_not_done := fun _ => rfl, done_variant := nofun }
  | true =>
    rw [openFrame_restart hr]
    exact { hs with errcode_legal := .head _, error_not_done := fun _ => rfl, done_variant := nofun }

/-! ### The effects of the commands -/

theorem loadVariant_inv (x : Variant) : (loadVariant x s).Inv :=
  { hs with
    variant_legal := variantWord_legal x
    outlen_eq := outlenWord_toNat x
    plen_eq := rfl
    plen_fits := Nat.zero_le _
    tcnt_le := Nat.zero_le _
    done_variant := fun _ => variantWord_ne_zero x
    cact_variant := nofun }

/-- Padding that fits writes inside MSG only, and PLEN and NBLK hold their exact values (R55, R162). -/
theorem padMessage_inv (hfit : paddedLength s.mlen.toNat ≤ s.capacity.toNat) : (padMessage s).Inv := by
  have hcap := hs.capacity_le
  have hplen : (padMessage s).plen.toNat = paddedLength s.mlen.toNat := Nat.mod_eq_of_lt (by omega)
  have hnblk : (padMessage s).nblk.toNat = paddedLength s.mlen.toNat / 128 := Nat.mod_eq_of_lt (by omega)
  exact
    { hs with
      plen_eq := by rw [hplen, hnblk, paddedLength_div]
      plen_fits := hplen.le.trans hfit
      msg_wf := padMemory_wf hs.msg_wf _
      msg_inside := fun c hc => (mem_padMemory hc).elim (fun h => h.trans_le hfit) (hs.msg_inside c) }

theorem startCompression_inv (hv : s.variant ≠ 0) : (startCompression s).Inv :=
  { hs with tcnt_le := Nat.zero_le _, cact_variant := fun _ => hv }

theorem advanceRounds_inv {n : Nat} (hn : s.tcnt.toNat + n ≤ 80) : (advanceRounds n s).Inv :=
  { hs with tcnt_le := (Nat.mod_le _ _).trans hn }

theorem finishCompression_inv : (finishCompression s).Inv := { hs with cact_variant := nofun }

theorem compressBlock_inv : (compressBlock s).Inv := { hs with tcnt_le := Nat.le_refl 80 }

theorem processBlock_inv : (processBlock s).Inv := { hs with tcnt_le := Nat.le_refl 80 }

theorem writeDigest_inv (he : s.status.errcode = 0) (hv : s.variant ≠ 0) : (writeDigest s).Inv :=
  { hs with error_not_done := fun h => absurd he h, done_variant := fun _ => hv }

end

theorem processBlocks_inv (n : Nat) {s : State} (hs : s.Inv) : (processBlocks n s).Inv := by
  induction n generalizing s with
  | zero => exact hs
  | succ n ih => exact ih (processBlock_inv hs)

theorem digestMessage_inv {s : State} (hs : s.Inv) (he : s.status.errcode = 0) (x : Variant)
    (hfit : paddedLength s.mlen.toNat ≤ s.capacity.toNat) : (digestMessage x s).Inv := by
  rw [digestMessage_eq]
  refine writeDigest_inv (processBlocks_inv _ (padMessage_inv (loadVariant_inv hs x) hfit)) ?_ ?_
  · rw [processBlocks_status]; exact he
  · rw [processBlocks_frame]; exact variantWord_ne_zero x

/-- A command that acts with no error latched keeps the invariant. -/
theorem Acts.inv {i : Instr} {s u : State} (h : Acts i s u) (hs : s.Inv) (he : s.status.errcode = 0) : u.Inv := by
  cases i with
  | init v => obtain ⟨x, -, rfl⟩ := h; exact loadVariant_inv hs x
  | pad => obtain ⟨-, hfit, rfl⟩ := h; exact padMessage_inv hs hfit
  | loadblk => obtain ⟨-, rfl⟩ := h; exact { hs with }
  | sched => obtain ⟨-, rfl⟩ := h; exact { hs with }
  | cstart => obtain ⟨hv, rfl⟩ := h; exact startCompression_inv hs hv
  | round n => obtain ⟨-, hn, rfl⟩ := h; exact advanceRounds_inv hs hn
  | cfinal => obtain ⟨-, rfl⟩ := h; exact finishCompression_inv hs
  | compress => obtain ⟨-, rfl⟩ := h; exact compressBlock_inv hs
  | block => obtain ⟨-, rfl⟩ := h; exact processBlock_inv hs
  | finish => obtain ⟨hv, rfl⟩ := h; exact writeDigest_inv hs he hv
  | digest v => obtain ⟨x, -, hfit, rfl⟩ := h; exact digestMessage_inv hs he x hfit

theorem performPending_inv {s t : State} (hs : s.Inv) (h : performPending s = .next t) : t.Inv := by
  obtain rfl | ⟨hg, i, u, -, hu, rfl⟩ | ⟨e, rfl⟩ := performPending_cases h
  · exact endCommand_inv hs
  · exact endCommand_inv (hu.inv (openFrame_inv hs _) (openFrame_errcode hg))
  · exact endCommand_inv (raiseError_inv (openFrame_inv hs _) e)

/-! ### The host, the early start and the reset event -/

theorem storeAt_inv {s : State} (hs : s.Inv) (loc : Location) (v : Word)
    (hloc : ∀ j, loc = .msg j → j < s.capacity.toNat) : (storeAt loc v s).Inv := by
  cases loc with
  | reg r => cases r <;> exact { hs with }
  | dout j => exact hs
  | msg j =>
    exact
      { hs with
        msg_wf := store_wf hs.msg_wf j _
        msg_inside := fun c hc => (mem_store hc).elim (fun h => h ▸ hloc j rfl) (hs.msg_inside c) }

/-- A write reaches MSG only inside it (R53, R57). -/
theorem writeTarget_msg {width : Width} {capacity : Nat} {offset : Word} {j : Nat}
    (h : writeTarget width capacity offset = some (.msg j)) : j < capacity := by
  obtain ⟨r, -, hr, -⟩ | ⟨k, -, hk, -, hlt⟩ := writeTarget_some h
  · cases hr
  · cases hk; exact hlt

theorem hostAccess_inv {s : State} (hs : s.Inv) (a : Access) : (hostAccess a s).Inv := by
  cases a with
  | read width offset =>
    obtain ⟨-, h⟩ | ⟨loc, -, -, h⟩ | ⟨loc, -, -, h⟩ := hostRead_cases width offset s <;>
      exact (congrArg State.Inv h).mpr { hs with }
  | write width offset v =>
    obtain ⟨-, h⟩ | ⟨loc, -, -, h⟩ | ⟨loc, hloc, -, h⟩ := hostWrite_cases width offset v s
    · exact (congrArg State.Inv h).mpr { hs with }
    · rw [dropWrite_eq] at h
      exact (congrArg State.Inv h).mpr { hs with }
    · have hstored := storeAt_inv hs loc v (fun j hj => writeTarget_msg (hj ▸ hloc))
      exact (congrArg State.Inv h).mpr { hstored with }

theorem startPending_inv {s : State} (hs : s.Inv) : (startPending s).Inv := by
  obtain h | h := startPending_eq s <;> rw [h]
  · exact hs
  · exact { hs with }

theorem resetEvent_inv {s : State} (hs : s.Inv) : (resetEvent s).Inv :=
  { reset_inv with
    plen_fits := Nat.zero_le _
    capacity_mod := hs.capacity_mod
    capacity_ge := hs.capacity_ge
    capacity_le := hs.capacity_le
    msg_inside := nofun }

/-! ### One step -/

theorem nextTurn_inv {s : State} (hs : s.Inv) : (nextTurn s).2.Inv := by
  rw [nextTurn_state]; exact { hs with }

theorem step_inv {s t : State} (hs : s.Inv) (h : step s = .next t) : t.Inv := by
  obtain ⟨turn, u, hnext, hcases⟩ := step_cases h
  have hu : u.Inv := by have := nextTurn_inv hs; rwa [hnext] at this
  obtain ⟨-, -, hp⟩ | ⟨-, -, rfl⟩ | ⟨-, rfl⟩ | ⟨a, -, rfl⟩ | ⟨-, rfl⟩ := hcases
  · exact performPending_inv hu hp
  · exact hu
  · exact startPending_inv hu
  · exact hostAccess_inv hu a
  · exact resetEvent_inv hu

/-- Settles O58: each move of `step_cases` keeps the invariant. -/
theorem stepKeepsInvariant : Obligations.StepKeepsInvariant := fun _ _ hs h => step_inv hs h

/-! ### No step stops the machine -/

/-- Block BIDX < NBLK lies inside MSG, because PLEN does (R49, R55). -/
theorem bodyOf_ne_stopped {s : State} (hs : s.Inv) (i : Instr) (f : Fault) : bodyOf i s ≠ .stopped f := by
  intro h
  obtain ⟨u, hb, -⟩ | ⟨e, hb⟩ | ⟨-, hlt, hout⟩ := bodyOf_cases i s
  · cases hb.symm.trans h
  · cases hb.symm.trans h
  · have hplen := hs.plen_eq
    have hfit := hs.plen_fits
    omega

theorem performPending_goes_on {s : State} (hs : s.Inv) : ∃ t, performPending s = .next t := by
  rw [performPending_eq]
  cases h : perform (opcOf s.pend) (pendingBody s.pend) s with
  | next t => exact ⟨t, rfl⟩
  | fault f =>
    obtain ⟨i, hi⟩ := pendingBody_stopped (perform_fault h)
    exact absurd hi (bodyOf_ne_stopped (openFrame_inv hs _) i f)
  | refused r => exact absurd h (perform_ne_refused _ _ _ r)

theorem takeTurn_goes_on {s : State} (hs : s.Inv) (turn : Turn) : ∃ t, takeTurn turn s = .next t := by
  cases turn with
  | engine =>
    cases hb : s.status.busy with
    | true => simpa [takeTurn, engineTurn, hb] using performPending_goes_on hs
    | false => exact ⟨s, by simp [takeTurn, engineTurn, hb]⟩
  | start => exact ⟨_, rfl⟩
  | access a => exact ⟨_, rfl⟩
  | reset => exact ⟨_, rfl⟩

theorem step_goes_on {s : State} (hs : s.Inv) : ∃ t, step s = .next t ∧ t.Inv := by
  obtain ⟨t, ht⟩ := takeTurn_goes_on (nextTurn_inv hs) (nextTurn s).1
  exact ⟨t, ht, step_inv hs ht⟩

theorem run_goes_on (k : Nat) {s : State} (hs : s.Inv) : ∃ t, Host.Core.run core k s = .next t ∧ t.Inv := by
  induction k generalizing s with
  | zero => exact ⟨s, rfl, hs⟩
  | succ k ih =>
    obtain ⟨u, hu, huInv⟩ := step_goes_on hs
    rw [run_next hu]
    exact ih huInv

/-- Settles O60, by induction on the number of steps from `reset_inv`; the moves to come are no part of the invariant. -/
theorem everyRunFromResetIsSafe : Obligations.EveryRunFromResetIsSafe :=
  fun _ k => run_goes_on k { reset_inv with }

end Sys2Proof.Machine

/-! SUPPORT. The host's register accesses (spec 10_state.md R28, R29, R37, R62; 20_memory.md R57) and the layout of STATUS (R39). -/

namespace Sys2Proof.Machine

/-! ### The register map -/

/-- Each register of R28 is found at its own offset: the ten single ones by evaluation, one of the four windows past the tests
before it. -/
theorem regAt_regOffset (r : Reg) : regAt (regOffset r) = some r := by
  cases r with
  | h i =>
    show regAt (0x080 + 8 * i.val) = _
    unfold regAt
    iterate 11 rw [if_neg (by omega)]
    rw [dif_pos (by omega)]
    simp
  | wr i =>
    show regAt (0x0C0 + 8 * i.val) = _
    unfold regAt
    iterate 11 rw [if_neg (by omega)]
    rw [dif_neg (by omega), dif_pos (by omega)]
    simp
  | blk i =>
    show regAt (0x100 + 8 * i.val) = _
    unfold regAt
    iterate 11 rw [if_neg (by omega)]
    rw [dif_neg (by omega), dif_neg (by omega), dif_pos (by omega)]
    simp
  | w t =>
    show regAt (0x200 + 8 * t.val) = _
    unfold regAt
    iterate 11 rw [if_neg (by omega)]
    rw [dif_neg (by omega), dif_neg (by omega), dif_neg (by omega), dif_pos (by omega)]
    simp
  | _ => rfl

theorem eq_regOffset_of_regAt {n : Nat} {r : Reg} (h : regAt n = some r) : n = regOffset r := by
  unfold regAt at h
  obtain ⟨-, h⟩ | ⟨haligned, h⟩ := ite_eq_iff.mp h
  · cases h
  iterate 10
    obtain ⟨hn, h⟩ | ⟨-, h⟩ := ite_eq_iff.mp h
    · cases h; exact hn
  iterate 4
    obtain ⟨hn, h⟩ | ⟨-, h⟩ := dite_eq_iff.mp h
    · cases h; simp only [regOffset]; omega
  cases h

/-- Settles O42: `regAt` and `regOffset` are inverse to each other. -/
theorem registerMapIsExact : Obligations.RegisterMapIsExact :=
  ⟨regAt_regOffset, fun _ _ h => eq_regOffset_of_regAt h⟩

/-- Every register lies below the DOUT window (R51). -/
theorem regOffset_lt (r : Reg) : regOffset r < doutBase := by
  cases r <;> simp only [regOffset, doutBase] <;> omega

theorem regOffset_toNat (r : Reg) : (BitVec.ofNat 64 (regOffset r)).toNat = regOffset r :=
  Nat.mod_eq_of_lt ((regOffset_lt r).trans (by decide))

theorem locate_regOffset (capacity : Nat) (r : Reg) :
    locate capacity (BitVec.ofNat 64 (regOffset r)) = some (.reg r) := by
  have hlt : (BitVec.ofNat 64 (regOffset r)).toNat < doutBase := (regOffset_toNat r).symm ▸ regOffset_lt r
  exact (if_pos hlt).trans (by rw [regOffset_toNat, regAt_regOffset]; rfl)

/-! ### A 64-bit access to a register -/

theorem hostWrite_reg_idle {s : State} (hb : s.status.busy = false) (r : Reg) (v : Word) :
    hostAccess (.write .bits64 (BitVec.ofNat 64 (regOffset r)) v) s =
      { writeReg r v s with reply := some (.written false) } := by
  simp [hostAccess, hostWrite, writeTarget, locate_regOffset, hb, storeAt]

theorem hostWrite_reg_busy {s : State} (hb : s.status.busy = true) (r : Reg) (v : Word) :
    hostAccess (.write .bits64 (BitVec.ofNat 64 (regOffset r)) v) s =
      { dropWrite (.reg r) s with reply := some (.written false) } := by
  simp [hostAccess, hostWrite, writeTarget, locate_regOffset, hb]

theorem hostRead_reg_idle {s : State} (hb : s.status.busy = false) (r : Reg) :
    hostAccess (.read .bits64 (BitVec.ofNat 64 (regOffset r))) s =
      { s with reply := some (.read (readReg r s) false) } := by
  simp [hostAccess, hostRead, readTarget, locate_regOffset, hb, idleReadData]

/-- Settles O43: CMD is the register at offset 0. -/
theorem commandWriteIsAccepted : Obligations.CommandWriteIsAccepted :=
  fun _ v => ⟨fun hb => hostWrite_reg_idle hb .cmd v, fun hb => hostWrite_reg_busy hb .cmd v⟩

theorem writeReg_readOnly {r : Reg} (h : r ∈ ([.status, .variant, .outlen, .plen, .nblk, .tcnt, .capacity] : List Reg) ∨
    (∃ i, r = .wr i) ∨ ∃ t, r = .w t) (v : Word) (s : State) : writeReg r v s = s := by
  obtain h | ⟨i, rfl⟩ | ⟨t, rfl⟩ := h
  · fin_cases h <;> rfl
  · rfl
  · rfl

/-- Settles O44, by `writeReg_readOnly`; CMD reads 0 as a register. -/
theorem readOnlyWritesIgnored : Obligations.ReadOnlyWritesIgnored := fun s r v hb hr =>
  ⟨by rw [hostWrite_reg_idle hb, writeReg_readOnly hr], hostRead_reg_idle hb .cmd⟩

/-! ### A register the host may write -/

/-- The registers a host write stores its value in (R28). -/
def Reg.hostWritable (r : Reg) : Prop := r = .mlen ∨ r = .bidx ∨ (∃ i, r = .h i) ∨ ∃ i, r = .blk i

/-- A register file after a host write: the value at the register written, every other register as before. -/
theorem readReg_writeReg {r : Reg} (hr : r.hostWritable) (q : Reg) (v : Word) (s : State) :
    readReg q (writeReg r v s) = if q = r then v else readReg q s := by
  obtain rfl | rfl | ⟨i, rfl⟩ | ⟨i, rfl⟩ := hr
  · cases q <;> rfl
  · cases q <;> rfl
  · cases q with
    | h j => simp [readReg, writeReg, Vector.getElem_set, Fin.ext_iff, eq_comm]
    | _ => rfl
  · cases q with
    | blk j => simp [readReg, writeReg, Vector.getElem_set, Fin.ext_iff, eq_comm]
    | _ => rfl

/-- A host write to a writable register leaves BUSY, MSG, DBUF and PEND alone. -/
theorem writeReg_frame {r : Reg} (hr : r.hostWritable) (v : Word) (s : State) :
    (writeReg r v s).status = s.status ∧ (writeReg r v s).msg = s.msg ∧ (writeReg r v s).epoch = s.epoch ∧
      (writeReg r v s).dbuf = s.dbuf ∧ (writeReg r v s).pend = s.pend := by
  obtain rfl | rfl | ⟨i, rfl⟩ | ⟨i, rfl⟩ := hr <;> exact ⟨rfl, rfl, rfl, rfl, rfl⟩

/-- The reply to an access is no register. -/
theorem readReg_reply (q : Reg) (s : State) (r : Option Reply) : readReg q { s with reply := r } = readReg q s := by
  cases q <;> rfl

/-- Settles O45, by `readReg_writeReg` at the register written and at every other one. -/
theorem registerReadsBack : Obligations.RegisterReadsBack := by
  rintro s r v hb hr t rfl
  obtain ⟨hstatus, hmsg, hepoch, hdbuf, hpend⟩ := writeReg_frame hr v s
  rw [hostWrite_reg_idle hb]
  refine ⟨rfl, ?_, fun q hq => ?_, hmsg, hepoch, hdbuf, hpend⟩
  · rw [hostRead_reg_idle (by rw [hstatus]; exact hb), readReg_reply, readReg_writeReg hr, if_pos rfl]
  · rw [readReg_reply, readReg_writeReg hr, if_neg hq]

/-! ### The layout of STATUS -/

theorem statusBit_getLsbD (b : Bool) {i : Nat} (hi : i < 64) (j : Nat) :
    (statusBit b i).getLsbD j = (decide (j = i) && b) := by
  unfold statusBit
  by_cases hj : j = i
  · subst hj
    simp [hi]
  · rcases Nat.lt_or_gt_of_ne hj with hlt | hgt
    · simp [hj, hlt]
    · have : j - i ≠ 0 := by omega
      simp [hj, this]

/-- Every bit of STATUS (R39). -/
theorem Status.word_getLsbD (st : Status) (j : Nat) :
    st.word.getLsbD j =
      (decide (j = 0) && st.busy || decide (j = 1) && st.done || decide (j = 2) && st.cact ||
        decide (j = 3) && st.cmdovr || decide (j = 4) && st.wrovr || decide (8 ≤ j) && st.errcode.getLsbD (j - 8)) := by
  have herr : (st.errcode.setWidth 64 <<< 8 : Word).getLsbD j = (decide (8 ≤ j) && st.errcode.getLsbD (j - 8)) := by
    by_cases hj : j < 12
    · simp [show j < 64 by omega, ← decide_not]
    · simp [BitVec.getLsbD_of_ge st.errcode (j - 8) (by omega)]
  unfold Status.word
  simp only [BitVec.getLsbD_or, statusBit_getLsbD _ (show 0 < 64 by decide), statusBit_getLsbD _ (show 1 < 64 by decide),
    statusBit_getLsbD _ (show 2 < 64 by decide), statusBit_getLsbD _ (show 3 < 64 by decide),
    statusBit_getLsbD _ (show 4 < 64 by decide), herr]

/-- Above the five flags STATUS holds ERRCODE from bit 8 on, and nothing else. -/
theorem Status.word_getLsbD_of_ge (st : Status) {j : Nat} (hj : 5 ≤ j) :
    st.word.getLsbD j = (decide (8 ≤ j) && st.errcode.getLsbD (j - 8)) := by
  simp [Status.word_getLsbD, show j ≠ 0 by omega, show j ≠ 1 by omega, show j ≠ 2 by omega, show j ≠ 3 by omega,
    show j ≠ 4 by omega]

/-- Settles O52, bit by bit from `Status.word_getLsbD`. -/
theorem statusLayout : Obligations.StatusLayout := by
  intro st
  have hcode : st.word.extractLsb' 8 4 = st.errcode := by
    apply BitVec.eq_of_getLsbD_eq
    intro j hj
    rw [BitVec.getLsbD_extractLsb', st.word_getLsbD_of_ge (by omega)]
    simp [hj]
  have hreserved : st.word.extractLsb' 5 3 = 0 := by
    apply BitVec.eq_of_getLsbD_eq
    intro j hj
    rw [BitVec.getLsbD_extractLsb', st.word_getLsbD_of_ge (by omega), decide_eq_false (show ¬ 8 ≤ 5 + j by omega)]
    simp
  have hhigh : st.word.toNat < 2 ^ 12 := by
    apply Nat.lt_pow_two_of_testBit
    intro j hj
    rw [BitVec.testBit_toNat, st.word_getLsbD_of_ge (by omega), BitVec.getLsbD_of_ge _ _ (by omega), Bool.and_false]
  refine ⟨?_, ?_, ?_, ?_, ?_, ?_, ?_, hhigh⟩
  iterate 5
    · rw [Status.word_getLsbD]; simp
  · rw [← Nat.shiftRight_eq_div_pow, ← BitVec.extractLsb'_toNat, hcode]
  · rw [← Nat.shiftRight_eq_div_pow, ← BitVec.extractLsb'_toNat, hreserved]; rfl

/-! ### The state after reset -/

/-- Settles O55, by the definition of the reset state. -/
theorem resetValues : Obligations.ResetValues := by
  refine ⟨by decide, by decide, ?_, ?_, rfl, rfl, rfl, rfl, rfl, rfl, rfl, reset_capacity_toNat, by decide, rfl, ?_,
    fun _ => rfl⟩
  · intro i; exact Vector.getElem_replicate _
  · intro t; exact Vector.getElem_replicate _
  · intro j; exact Vector.getElem_replicate _

end Sys2Proof.Machine

/-! SUPPORT. The registers over one step (spec 10_state.md R31, R33, R36), and the outcome of a command that was started early
(assumption 5). -/

namespace Sys2Proof.Machine

/-! ### VARIANT, OUTLEN, MLEN and CAPACITY over one move -/

theorem hostRead_registers (width : Width) (offset : Word) (s : State) :
    ∃ r d, hostRead width offset s = { s with reply := r, draws := d } := by
  obtain ⟨-, h⟩ | ⟨loc, -, -, h⟩ | ⟨loc, -, -, h⟩ := hostRead_cases width offset s <;> exact ⟨_, _, h⟩

/-- No host access changes VARIANT, OUTLEN or CAPACITY (R28, R29). -/
theorem hostAccess_readOnly (a : Access) (s : State) :
    (hostAccess a s).variant = s.variant ∧ (hostAccess a s).outlen = s.outlen ∧
      (hostAccess a s).capacity = s.capacity := by
  cases a with
  | read width offset =>
    obtain ⟨r, d, h⟩ := hostRead_registers width offset s
    simp [hostAccess, h]
  | write width offset v =>
    obtain ⟨-, h⟩ | ⟨loc, -, -, h⟩ | ⟨loc, -, -, h⟩ := hostWrite_cases width offset v s
    · simp [hostAccess, h]
    · simp [hostAccess, h, dropWrite_eq]
    · simp only [hostAccess, h]
      cases loc with
      | reg r => cases r <;> exact ⟨rfl, rfl, rfl⟩
      | dout j => exact ⟨rfl, rfl, rfl⟩
      | msg j => exact ⟨rfl, rfl, rfl⟩

/-- A write with BUSY = 0 changes MLEN only at MLEN itself, to the value written (R57). -/
theorem storeAt_mlen {loc : Location} {v : Word} {s : State} (h : (storeAt loc v s).mlen ≠ s.mlen) :
    loc = .reg .mlen ∧ (storeAt loc v s).mlen = v := by
  cases loc with
  | reg r =>
    cases r with
    | mlen => exact ⟨rfl, rfl⟩
    | _ => exact absurd rfl h
  | dout j => exact absurd rfl h
  | msg j => exact absurd rfl h

/-- The one host access that changes MLEN: a 64-bit write at its offset with BUSY = 0 (R33, R57). -/
theorem hostAccess_mlen {a : Access} {s : State} (h : (hostAccess a s).mlen ≠ s.mlen) :
    s.status.busy = false ∧ a = .write .bits64 0x020 (hostAccess a s).mlen := by
  cases a with
  | read width offset =>
    obtain ⟨r, d, hr⟩ := hostRead_registers width offset s
    simp [hostAccess, hr] at h
  | write width offset v =>
    simp only [hostAccess] at h ⊢
    obtain ⟨-, hw⟩ | ⟨loc, -, -, hw⟩ | ⟨loc, htarget, hbusy, hw⟩ := hostWrite_cases width offset v s
    · simp [hw] at h
    · simp [hw, dropWrite_eq] at h
    · rw [hw] at h ⊢
      obtain ⟨rfl, hv⟩ := storeAt_mlen h
      obtain ⟨r, rfl, hr, hreg⟩ | ⟨j, -, hj, -⟩ := writeTarget_some htarget
      · cases hr
        have hoffset : offset = 0x020 := BitVec.eq_of_toNat_eq (eq_regOffset_of_regAt hreg)
        exact ⟨hbusy, congrArg₂ (Access.write .bits64) hoffset hv.symm⟩
      · cases hj

/-! ### The move a step takes -/

theorem nextTurn_eq {s u : State} {turn : Turn} (h : nextTurn s = (turn, u)) :
    (s.turns.head? = some turn ∨ turn = .engine ∧ s.turns = []) ∧ u = { s with turns := s.turns.tail } := by
  have hu : u = { s with turns := s.turns.tail } := by rw [← nextTurn_state, h]
  refine ⟨?_, hu⟩
  unfold nextTurn at h
  cases hturns : s.turns with
  | nil => rw [hturns] at h; cases h; exact .inr ⟨rfl, rfl⟩
  | cons t rest => rw [hturns] at h; cases h; exact .inl rfl

/-- Everything a step can do, seen from the state before the move is taken off the list. -/
theorem step_moves {s t : State} (h : step s = .next t) :
    ∃ u, u = { s with turns := s.turns.tail } ∧
      ((s.turns.head? = some .engine ∨ s.turns = []) ∧ s.status.busy = true ∧ performPending u = .next t ∨
        t = u ∨ t = startPending u ∨
        (∃ a, s.turns.head? = some (.access a) ∧ t = hostAccess a u) ∨
        s.turns.head? = some .reset ∧ t = resetEvent u) := by
  obtain ⟨turn, u, hnext, hcases⟩ := step_cases h
  obtain ⟨hturn, rfl⟩ := nextTurn_eq hnext
  refine ⟨_, rfl, ?_⟩
  obtain ⟨rfl, hb, hp⟩ | ⟨-, -, ht⟩ | ⟨-, ht⟩ | ⟨a, rfl, ht⟩ | ⟨rfl, ht⟩ := hcases
  · exact .inl ⟨hturn.imp_right And.right, hb, hp⟩
  · exact .inr (.inl ht)
  · exact .inr (.inr (.inl ht))
  · exact .inr (.inr (.inr (.inl ⟨a, hturn.resolve_right (fun h => nomatch h.1), ht⟩)))
  · exact .inr (.inr (.inr (.inr ⟨hturn.resolve_right (fun h => nomatch h.1), ht⟩)))

/-- The early start changes no register. -/
theorem startPending_registers (s : State) :
    (startPending s).variant = s.variant ∧ (startPending s).outlen = s.outlen ∧ (startPending s).mlen = s.mlen ∧
      (startPending s).capacity = s.capacity := by
  obtain h | h := startPending_eq s <;> simp [h]

/-! ### VARIANT, MLEN and CAPACITY over a step -/

/-- A step leaves VARIANT and OUTLEN, or is a reset or the engine's INIT or DIGEST with a legal argument (R31). -/
theorem step_variant_cases {s t : State} (h : step s = .next t) :
    (t.variant = s.variant ∧ t.outlen = s.outlen) ∨ s.turns.head? = some .reset ∨
      (s.turns.head? = some .engine ∨ s.turns = []) ∧ s.status.busy = true ∧
        ∃ x, (decode s.pend = .ok (.init (variantBits x)) ∨ decode s.pend = .ok (.digest (variantBits x))) ∧
          t.variant.toNat = variantBits x := by
  obtain ⟨u, rfl, ⟨hturn, hbusy, hp⟩ | rfl | rfl | ⟨a, -, rfl⟩ | ⟨hreset, -⟩⟩ := step_moves h
  · exact (performPending_variant_cases hp).imp_right fun hx => .inr ⟨hturn, hbusy, hx⟩
  · exact .inl ⟨rfl, rfl⟩
  · obtain ⟨hv, ho, -⟩ := startPending_registers { s with turns := s.turns.tail }
    exact .inl ⟨hv, ho⟩
  · obtain ⟨hv, ho, -⟩ := hostAccess_readOnly a { s with turns := s.turns.tail }
    exact .inl ⟨hv, ho⟩
  · exact .inr (.inl hreset)

/-- Settles O39, by the moves of `step_variant_cases`. -/
theorem onlyInitDigestChangeVariant : Obligations.OnlyInitDigestChangeVariant := by
  intro s t h hchange
  obtain ⟨hv, ho⟩ | hreset | ⟨hturn, hbusy, x, hdecode, hv⟩ := step_variant_cases h
  · exact absurd hchange (by simp [hv, ho])
  · exact .inl hreset
  · exact .inr ⟨hturn, hbusy, variantBits x, hdecode, variantBits_legal x, hv⟩

/-- Settles O40: of the moves of `step_moves` only a reset and the write of `hostAccess_mlen` change MLEN. -/
theorem onlyHostChangesMlen : Obligations.OnlyHostChangesMlen := by
  intro s t h hchange
  obtain ⟨u, rfl, ⟨-, -, hp⟩ | rfl | rfl | ⟨a, hturn, rfl⟩ | ⟨hreset, -⟩⟩ := step_moves h
  · obtain ⟨hm, -⟩ := performPending_frame hp
    exact absurd hm hchange
  · exact absurd rfl hchange
  · obtain ⟨-, -, hm, -⟩ := startPending_registers { s with turns := s.turns.tail }
    exact absurd hm hchange
  · obtain ⟨hbusy, ha⟩ := hostAccess_mlen (s := { s with turns := s.turns.tail }) hchange
    exact .inr ⟨hbusy, by rw [hturn, ← ha]⟩
  · exact .inl hreset

theorem step_capacity {s t : State} (h : step s = .next t) : t.capacity = s.capacity := by
  obtain ⟨u, rfl, ⟨-, -, hp⟩ | rfl | rfl | ⟨a, -, rfl⟩ | ⟨-, rfl⟩⟩ := step_moves h
  · obtain ⟨-, hc⟩ := performPending_frame hp
    exact hc
  · rfl
  · obtain ⟨-, -, -, hc⟩ := startPending_registers { s with turns := s.turns.tail }
    exact hc
  · obtain ⟨-, -, hc⟩ := hostAccess_readOnly a { s with turns := s.turns.tail }
    exact hc
  · rfl

/-- Settles O41: no move of `step_moves` changes CAPACITY. -/
theorem capacityIsConstant : Obligations.CapacityIsConstant := ⟨reset_capacity_toNat, fun _ _ h => step_capacity h⟩

/-! ### A command that was started early -/

/-- The state with the early-start mark and the overrun bits given: all that an early start and later dropped writes touch
(assumption 5). -/
def markOverruns (begun cmdovr wrovr : Bool) (s : State) : State :=
  { s with begun, status := { s.status with cmdovr, wrovr } }

/-- A verdict with its state changed. -/
def Verdict.map (f : State → State) : Verdict → Verdict
  | .acted s => .acted (f s)
  | .raised e => .raised e
  | .stopped r => .stopped r

section
variable (begun cmdovr wrovr : Bool) (s : State)

theorem loadBlock_markOverruns :
    loadBlock (markOverruns begun cmdovr wrovr s) = markOverruns begun cmdovr wrovr (loadBlock s) :=
  congrArg (fun blk => markOverruns begun cmdovr wrovr { s with blk })
    (blockWords_congr (s := s) (t := markOverruns begun cmdovr wrovr s) rfl rfl _)

theorem processBlock_markOverruns :
    processBlock (markOverruns begun cmdovr wrovr s) = markOverruns begun cmdovr wrovr (processBlock s) :=
  congrArg (fun u => advanceIndex (compressBlock (expandBlock u))) (loadBlock_markOverruns begun cmdovr wrovr s)

theorem processBlocks_markOverruns (n : Nat) :
    processBlocks n (markOverruns begun cmdovr wrovr s) = markOverruns begun cmdovr wrovr (processBlocks n s) := by
  induction n generalizing s with
  | zero => rfl
  | succ n ih => rw [processBlocks, processBlock_markOverruns, ih]; rfl

theorem digestMessage_markOverruns (x : Variant) :
    digestMessage x (markOverruns begun cmdovr wrovr s) = markOverruns begun cmdovr wrovr (digestMessage x s) := by
  have hpad : padMessage (loadVariant x (markOverruns begun cmdovr wrovr s)) =
      markOverruns begun cmdovr wrovr (padMessage (loadVariant x s)) := rfl
  rw [digestMessage_eq, digestMessage_eq, hpad, processBlocks_markOverruns]
  rfl

theorem initBody_markOverruns (v : Nat) :
    initBody v (markOverruns begun cmdovr wrovr s) = (initBody v s).map (markOverruns begun cmdovr wrovr) := by
  unfold initBody
  cases variantOf v <;> rfl

theorem digestBody_markOverruns (v : Nat) :
    digestBody v (markOverruns begun cmdovr wrovr s) = (digestBody v s).map (markOverruns begun cmdovr wrovr) := by
  unfold digestBody
  have hfits : messageFits (markOverruns begun cmdovr wrovr s) = messageFits s := rfl
  cases variantOf v with
  | none => rfl
  | some x =>
    simp only [hfits, digestMessage_markOverruns]
    cases messageFits s <;> rfl

/-- The checks and effects of INIT, DIGEST and an illegal word with their OPC read neither the mark nor the overrun bits. -/
theorem pendingBody_markOverruns {word : Word} (hw : opcOf word = 0x01 ∨ opcOf word = 0x0B) :
    pendingBody word (markOverruns begun cmdovr wrovr s) = (pendingBody word s).map (markOverruns begun cmdovr wrovr) := by
  unfold pendingBody
  cases hd : decode word with
  | error e => rfl
  | ok i =>
    have hr : clearsErrors i = true := by rwa [← restarts_opcodeOf, restarts_iff, opcodeOf_decode hd]
    cases i with
    | init v => exact initBody_markOverruns begun cmdovr wrovr s v
    | digest v => exact digestBody_markOverruns begun cmdovr wrovr s v
    | _ => exact absurd hr Bool.false_ne_true

end

/-- The frame of an INIT or DIGEST that was started early keeps the mark and the overrun bits it finds; without the mark it clears
them (R160; assumption 5). -/
theorem openFrame_early {opc : Byte} (hr : restarts opc = true) {s : State} (hbegun : s.begun = true) :
    openFrame opc s =
      markOverruns true s.status.cmdovr s.status.wrovr (openFrame opc { s with begun := false }) := by
  rw [openFrame_restart hr, openFrame_restart hr]
  simp [markOverruns, hbegun]

/-- Settles O54: the two frames differ in the mark and the overrun bits only, and nothing after them reads those. -/
theorem earlyStartKeepsOverruns : Obligations.EarlyStartKeepsOverruns := by
  intro s t hbegun hopc h
  have hr : restarts (opcOf s.pend) = true := (restarts_iff _).2 hopc
  have hopen : gateClosed (opcOf s.pend) s = false := gateClosed_eq_false (.inr hr)
  have hbody := pendingBody_markOverruns true s.status.cmdovr s.status.wrovr
    (openFrame (opcOf s.pend) { s with begun := false }) hopc
  rw [← openFrame_early hr hbegun] at hbody
  rw [performPending_eq] at h ⊢
  obtain ⟨hclosed, -⟩ | ⟨-, u, hu, rfl⟩ | ⟨-, e, he, rfl⟩ := perform_cases h
  · cases hclosed.symm.trans (gateClosed_eq_false (.inr hr))
  · rw [hu] at hbody
    exact perform_acted hopen hbody
  · rw [he] at hbody
    rw [perform_raised hopen hbody, openFrame_early hr hbegun]
    rfl

end Sys2Proof.Machine

/-! SUPPORT. The host's accesses by location (spec 20_memory.md R51 to R60, R67), and where the commands that read MSG stop
(R55). -/

namespace Sys2Proof.Machine

/-! ### What stops the machine -/

/-- Settles O59, by `step_goes_on`: block BIDX < NBLK lies inside MSG, and no command refuses. -/
theorem invariantStatesNeverStop : Obligations.InvariantStatesNeverStop := fun _ hs =>
  let ⟨t, ht, _⟩ := step_goes_on hs
  ⟨t, ht⟩

/-- A command that passes the gate and stops. -/
theorem exec_stopped {i : Instr} {s : State} {f : Fault} (hg : s.status.errcode = 0 ∨ clearsErrors i = true)
    (hb : bodyOf i (openFrame (opcodeOf i) s) = .stopped f) : exec i s = .fault f := by
  have hopen : gateClosed (opcodeOf i) s = false := gateClosed_eq_false (by rwa [restarts_opcodeOf])
  simp [exec_eq_body, perform, hopen, hb]

theorem loadblkBody_stopped {s : State} (hv : s.variant ≠ 0) (hn : s.bidx.toNat < s.nblk.toNat)
    (hp : s.plen.toNat % 128 = 0) (hout : s.capacity.toNat < 128 * s.bidx.toNat + 128) :
    loadblkBody s = .stopped .blockOutsideMsg := by
  obtain ⟨hv', -⟩ | ⟨-, hlen, -⟩ | ⟨-, -, -, -, hb⟩ | ⟨-, -, -, hin, -⟩ := loadblkBody_cases s
  · exact absurd hv' hv
  · omega
  · exact hb
  · omega

theorem blockBody_stopped {s : State} (hv : s.variant ≠ 0) (hc : s.status.cact = false)
    (hn : s.bidx.toNat < s.nblk.toNat) (hout : s.capacity.toNat < 128 * s.bidx.toNat + 128) :
    blockBody s = .stopped .blockOutsideMsg := by
  obtain ⟨hv' | hc', -⟩ | ⟨-, -, hlen, -⟩ | ⟨-, -, -, -, hb⟩ | ⟨-, -, -, hin, -⟩ := blockBody_cases s
  · exact absurd hv' hv
  · cases hc.symm.trans hc'
  · omega
  · exact hb
  · omega

/-- Settles O25: the frame changes nothing that the checks of LOADBLK and BLOCK read. -/
theorem blockOutsideMsgStops : Obligations.BlockOutsideMsgStops := fun _ he hv hn hout =>
  ⟨fun hp => exec_stopped (.inl he)
      (loadblkBody_stopped (by simpa using hv) (by simpa using hn) (by simpa using hp) (by simpa using hout)),
    fun hc => exec_stopped (.inl he)
      (blockBody_stopped (by simpa using hv) (by simpa using hc) (by simpa using hn) (by simpa using hout))⟩

/-! ### The address map (R51) -/

theorem locate_dout (capacity : Nat) {offset : Word} {j : Fin 64} (h : offset.toNat = doutBase + j.val) :
    locate capacity offset = some (.dout j) := by
  unfold locate
  dsimp only
  rw [if_neg (by omega), dif_pos (by omega)]
  simp [h]

theorem locate_msg {capacity : Nat} {offset : Word} {j : Nat} (h : offset.toNat = msgBase + j) (hj : j < capacity) :
    locate capacity offset = some (.msg j) := by
  unfold locate
  dsimp only
  have hbase : doutBase + 64 ≤ msgBase := by decide
  rw [if_neg (by omega), dif_neg (by omega), if_pos (by omega), h, Nat.add_sub_cancel_left]

/-- Everything an offset can reach: a register, a byte of the DOUT window, a byte inside MSG. -/
theorem locate_some {capacity : Nat} {offset : Word} {loc : Location} (h : locate capacity offset = some loc) :
    (∃ r, loc = .reg r ∧ offset.toNat = regOffset r) ∨
      (∃ j : Fin 64, loc = .dout j ∧ offset.toNat = doutBase + j.val) ∨
      ∃ j, loc = .msg j ∧ offset.toNat = msgBase + j ∧ j < capacity := by
  unfold locate at h
  obtain ⟨-, h⟩ | ⟨-, h⟩ := ite_eq_iff.mp h
  · obtain ⟨r, hr, rfl⟩ := Option.map_eq_some_iff.mp h
    exact .inl ⟨r, rfl, eq_regOffset_of_regAt hr⟩
  obtain ⟨hin, h⟩ | ⟨-, h⟩ := dite_eq_iff.mp h
  · cases h
    exact .inr (.inl ⟨_, rfl, (Nat.add_sub_cancel' hin.1).symm⟩)
  obtain ⟨hin, h⟩ | ⟨-, h⟩ := ite_eq_iff.mp h
  · cases h
    exact .inr (.inr ⟨_, rfl, by omega, by omega⟩)
  · cases h

/-- A legal read is a 64-bit one of a register or an 8-bit one of a byte of the DOUT window or of MSG (R57). -/
theorem readTarget_some {width : Width} {capacity : Nat} {offset : Word} {loc : Location}
    (h : readTarget width capacity offset = some loc) :
    (width = .bits64 ∧ ∃ r, offset.toNat = regOffset r) ∨
      (width = .bits8 ∧ doutBase ≤ offset.toNat ∧ offset.toNat < doutBase + 64) ∨
      (width = .bits8 ∧ msgBase ≤ offset.toNat ∧ offset.toNat < msgBase + capacity) := by
  unfold readTarget at h
  split at h
  case h_4 => cases h
  all_goals
    rename_i hloc
    obtain ⟨r, hl, hr⟩ | ⟨j, hl, hj⟩ | ⟨j, hl, hj, hlt⟩ := locate_some hloc <;> cases hl
  · exact .inl ⟨rfl, _, hr⟩
  · exact .inr (.inl ⟨rfl, by omega, by omega⟩)
  · exact .inr (.inr ⟨rfl, by omega, by omega⟩)

theorem readTarget_reg (capacity : Nat) (r : Reg) :
    readTarget .bits64 capacity (BitVec.ofNat 64 (regOffset r)) = some (.reg r) := by
  simp [readTarget, locate_regOffset]

theorem readTarget_dout (capacity : Nat) {offset : Word} {j : Fin 64} (h : offset.toNat = doutBase + j.val) :
    readTarget .bits8 capacity offset = some (.dout j) := by
  simp [readTarget, locate_dout capacity h]

theorem readTarget_msg {capacity : Nat} {offset : Word} {j : Nat} (h : offset.toNat = msgBase + j) (hj : j < capacity) :
    readTarget .bits8 capacity offset = some (.msg j) := by
  simp [readTarget, locate_msg h hj]

theorem writeTarget_msg_eq {capacity : Nat} {offset : Word} {j : Nat} (h : offset.toNat = msgBase + j)
    (hj : j < capacity) : writeTarget .bits8 capacity offset = some (.msg j) := by
  simp [writeTarget, locate_msg h hj]

theorem doutOffset_toNat {j : Nat} (hj : j < 64) : (BitVec.ofNat 64 (0x1000 + j)).toNat = doutBase + j :=
  Nat.mod_eq_of_lt (by omega)

theorem msgOffset_toNat {capacity j : Nat} (hj : j < capacity) (hcap : capacity ≤ 2 ^ 48) :
    (BitVec.ofNat 64 (0x10000 + j)).toNat = msgBase + j :=
  Nat.mod_eq_of_lt (by omega)

/-! ### An access whose target is known -/

section
variable {s : State} {width : Width} {offset : Word} {loc : Location}

theorem hostRead_busError (hl : readTarget width s.capacity.toNat offset = none) :
    hostAccess (.read width offset) s = { s with reply := some (.read 0 true) } := by
  simp [hostAccess, hostRead, hl]

theorem hostRead_idle (hb : s.status.busy = false) (hl : readTarget width s.capacity.toNat offset = some loc) :
    hostAccess (.read width offset) s = { s with reply := some (.read (idleReadData loc s) false) } := by
  simp [hostAccess, hostRead, hl, hb]

theorem hostRead_busy (hb : s.status.busy = true) (hl : readTarget width s.capacity.toNat offset = some loc) :
    hostAccess (.read width offset) s =
      { s with reply := some (.read (busyReadData loc s) false), draws := s.draws + 1 } := by
  simp [hostAccess, hostRead, hl, hb]

theorem hostWrite_busError (v : Word) (hl : writeTarget width s.capacity.toNat offset = none) :
    hostAccess (.write width offset v) s = { s with reply := some (.written true) } := by
  simp [hostAccess, hostWrite, hl]

theorem hostWrite_idle (v : Word) (hb : s.status.busy = false)
    (hl : writeTarget width s.capacity.toNat offset = some loc) :
    hostAccess (.write width offset v) s = { storeAt loc v s with reply := some (.written false) } := by
  simp [hostAccess, hostWrite, hl, hb]

end

/-! ### Bus errors -/

/-- Settles O48, by what a legal access reaches (`readTarget_some`, `writeTarget_some`). -/
theorem busErrorChangesNothing : Obligations.BusErrorChangesNothing := by
  intro s width offset v hreg hmsg
  have hwrite : writeTarget width s.capacity.toNat offset = none := by
    refine Option.eq_none_iff_forall_ne_some.2 fun loc h => ?_
    obtain ⟨r, hw, -, hr⟩ | ⟨j, hw, -, hj, hlt⟩ := writeTarget_some h
    · exact hreg ⟨hw, r, eq_regOffset_of_regAt hr⟩
    · exact hmsg ⟨hw, by rw [hj]; exact Nat.le_add_right _ j, by rw [hj]; exact Nat.add_lt_add_left hlt _⟩
  refine ⟨hostWrite_busError v hwrite, fun hdout => hostRead_busError ?_⟩
  refine Option.eq_none_iff_forall_ne_some.2 fun loc h => ?_
  obtain h | h | h := readTarget_some h
  · exact hreg h
  · exact hdout h
  · exact hmsg h

/-! ### Reads -/

/-- The reply to an access is no part of what a read with BUSY = 0 returns. -/
theorem idleReadData_reply (loc : Location) (s : State) (r : Option Reply) :
    idleReadData loc { s with reply := r } = idleReadData loc s := by
  cases loc with
  | reg q => exact readReg_reply q s r
  | dout j => rfl
  | msg j => rfl

/-- With BUSY = 0 the reply to a read does not depend on the reply before it. -/
theorem hostRead_after_reply {s : State} (hb : s.status.busy = false) (width : Width) (offset : Word)
    (r : Option Reply) : hostAccess (.read width offset) { s with reply := r } = hostAccess (.read width offset) s := by
  have hb' : ({ s with reply := r } : State).status.busy = false := hb
  cases hl : readTarget width s.capacity.toNat offset with
  | none => rw [hostRead_busError hl, hostRead_busError (s := { s with reply := r }) hl]
  | some loc => rw [hostRead_idle hb hl, hostRead_idle hb' hl, idleReadData_reply]

/-- A read that changed the reply only gives, made again, the same state and reply. -/
theorem hostRead_again {s : State} (hb : s.status.busy = false) {width : Width} {offset : Word} {r : Option Reply}
    (h : hostAccess (.read width offset) s = { s with reply := r }) :
    hostAccess (.read width offset) (hostAccess (.read width offset) s) = hostAccess (.read width offset) s := by
  conv_lhs => rw [h]
  exact hostRead_after_reply hb width offset r

/-- Settles O51: a bus error, a read with BUSY = 1 and one with BUSY = 0 are all a read can be. -/
theorem readsHaveNoSideEffect : Obligations.ReadsHaveNoSideEffect := by
  intro s width offset
  obtain ⟨-, h⟩ | ⟨loc, -, hbusy, h⟩ | ⟨loc, -, -, h⟩ := hostRead_cases width offset s
  · exact ⟨_, _, h, fun hb => ⟨rfl, hostRead_again hb h⟩⟩
  · exact ⟨_, _, h, fun hb => absurd (hbusy.symm.trans hb) (by decide)⟩
  · exact ⟨_, _, h, fun hb => ⟨rfl, hostRead_again hb h⟩⟩

/-! ### The DOUT window (R54) -/

theorem readDout_setWidth (j : Fin 64) (s : State) :
    (readDout j s).setWidth 64 =
      if s.status.done = true ∧ j.val < s.outlen.toNat then s.dbuf[j].setWidth 64 else 0 := by
  unfold readDout
  split <;> rfl

/-- Settles O47: an 8-bit read there reaches byte j of the window, and no form of write reaches the window at all (O48). -/
theorem doutWindowMasksDigest : Obligations.DoutWindowMasksDigest := by
  intro s j hj hb
  have hoffset := doutOffset_toNat hj
  refine ⟨?_, fun width v => (busErrorChangesNothing s width _ v ?_ ?_).1⟩
  · rw [hostRead_idle hb (readTarget_dout _ (j := ⟨j, hj⟩) hoffset)]
    exact congrArg (fun x => { s with reply := some (.read x false) }) (readDout_setWidth ⟨j, hj⟩ s)
  · rintro ⟨-, r, hr⟩
    have := regOffset_lt r
    omega
  · rintro ⟨-, hbase, -⟩
    simp only [doutBase] at hoffset
    omega

/-! ### The message buffer (R53) -/

/-- The low 8 bits of a word, as the reply to an 8-bit read holds them. -/
theorem setWidth_byte (x : Word) : (x.setWidth 8).setWidth 64 = x &&& 0xFF :=
  BitVec.eq_of_toNat_eq (by simp [Nat.and_two_pow_sub_one_eq_mod _ 8]; omega)

/-- MSG after one byte has been stored in it: the byte stored at its offset, every other byte as before. -/
theorem msgByte_store (s : State) (j : Nat) (b : Byte) (r : Option Reply) (a : Nat) :
    msgByte { s with msg := Mem.store s.msg j b, reply := r } a = if a = j then b else msgByte s a := by
  rw [msgByte_eq, msgByte_eq, find_store]
  split <;> rfl

/-- Settles O46: both accesses reach MSG[j], and `msgByte_store` says what MSG holds after the write. -/
theorem msgReadAndWrite : Obligations.MsgReadAndWrite := by
  intro s j v hb hj hcap
  have hoffset := msgOffset_toNat hj hcap
  refine ⟨hostRead_idle hb (readTarget_msg hoffset hj), Mem.store s.msg j (v.setWidth 8), ?_⟩
  intro t ht
  have hbt : t.status.busy = false := by rw [ht]; exact hb
  have hjt : j < t.capacity.toNat := by rw [ht]; exact hj
  refine ⟨(hostWrite_idle v hb (writeTarget_msg_eq hoffset hj)).trans ht.symm, ?_, fun a ha => ?_⟩
  · rw [hostRead_idle hbt (readTarget_msg hoffset hjt), ht]
    simp only [idleReadData, msgByte_store, if_pos, setWidth_byte]
  · rw [ht, msgByte_store, if_neg ha]

/-! ### Reads made while BUSY = 1 (R67) -/

theorem exactStatusBits_getLsbD (i : Nat) :
    exactStatusBits.getLsbD i = decide (i = 0 ∨ i = 3 ∨ i = 4) := by
  have hbits : exactStatusBits = statusBit true 0 ||| statusBit true 3 ||| statusBit true 4 := by decide
  rw [hbits]
  simp [statusBit_getLsbD _ (show 0 < 64 by decide), statusBit_getLsbD _ (show 3 < 64 by decide),
    statusBit_getLsbD _ (show 4 < 64 by decide), Bool.or_assoc]

/-- Every bit of STATUS as it reads while BUSY = 1: bits 0, 3 and 4 are STATUS's own, every other one is the draw's. -/
theorem Status.busyWord_getLsbD (st : Status) (draw : Word) (i : Nat) :
    (st.busyWord draw).getLsbD i = if i = 0 ∨ i = 3 ∨ i = 4 then st.word.getLsbD i else draw.getLsbD i := by
  unfold Status.busyWord
  rw [BitVec.getLsbD_or, BitVec.getLsbD_and, BitVec.getLsbD_and, BitVec.getLsbD_not, exactStatusBits_getLsbD]
  by_cases hi : i = 0 ∨ i = 3 ∨ i = 4
  · simp [hi]
  · by_cases hlt : i < 64
    · simp [hi, hlt]
    · simp [hi, BitVec.getLsbD_of_ge draw i (by omega)]

/-- What a read of a byte returns while BUSY = 1: the low 8 bits of the draw, in the DOUT window and in MSG alike. -/
theorem hostRead_byte_busy {s : State} (hb : s.status.busy = true) {offset : Word}
    (h : doutBase ≤ offset.toNat ∧ offset.toNat < doutBase + 64 ∨
      msgBase ≤ offset.toNat ∧ offset.toNat < msgBase + s.capacity.toNat) :
    hostAccess (.read .bits8 offset) s =
      { s with reply := some (.read (Config.busyDraw s.draws &&& 0xFF) false), draws := s.draws + 1 } := by
  rw [← setWidth_byte]
  obtain ⟨hbase, hlt⟩ | ⟨hbase, hlt⟩ := h
  · have hoffset : offset.toNat = doutBase + (offset.toNat - doutBase) := by omega
    exact hostRead_busy hb (readTarget_dout _ (j := ⟨offset.toNat - doutBase, by omega⟩) hoffset)
  · have hoffset : offset.toNat = msgBase + (offset.toNat - msgBase) := by omega
    exact hostRead_busy hb (readTarget_msg hoffset (by omega))

/-- Settles O50, by `busyReadData` at each location; STATUS bit by bit from `Status.busyWord_getLsbD`. -/
theorem busyReadsAreDraws : Obligations.BusyReadsAreDraws := by
  intro s hb
  have hread (r : Reg) := hostRead_busy hb (readTarget_reg s.capacity.toNat r)
  refine ⟨⟨_, hread .status, ?_, ?_, ?_, fun i h0 h3 h4 => ?_⟩, hread .capacity, fun r hs hc => ?_,
    fun offset h => hostRead_byte_busy hb h⟩
  · exact (s.status.busyWord_getLsbD _ 0).trans (by simp [Status.word_getLsbD, hb])
  · exact (s.status.busyWord_getLsbD _ 3).trans (by rw [Status.word_getLsbD]; simp)
  · exact (s.status.busyWord_getLsbD _ 4).trans (by rw [Status.word_getLsbD]; simp)
  · exact (s.status.busyWord_getLsbD _ i).trans (if_neg (by simp [h0, h3, h4]))
  · rw [hread r]
    cases r with
    | status => exact absurd rfl hs
    | capacity => exact absurd rfl hc
    | _ => rfl

end Sys2Proof.Machine

/-! SUPPORT. The command word (spec 30_encoding.md R80 to R88): the number its four fields make, the decoder and the legality
predicate as conditions on those fields, and the engine's move with a legal word pending. -/

namespace Sys2Proof

open Machine

/-! ### The fields of a word -/

/-- The fields of R80 make up the word, with no bit left over. -/
theorem toNat_eq_fields (w : Word) :
    w.toNat =
      (rsv2Of w).toNat * 2 ^ 32 + (argOf w).toNat * 2 ^ 16 + (rsv1Of w).toNat * 2 ^ 8 + (opcOf w).toNat := by
  have hw : w.toNat < 2 ^ 64 := w.isLt
  simp only [rsv2Of, argOf, rsv1Of, opcOf, BitVec.extractLsb'_toNat, Nat.shiftRight_eq_div_pow]
  omega

theorem word_ext {w v : Word} (hopc : opcOf w = opcOf v) (hrsv1 : rsv1Of w = rsv1Of v) (harg : argOf w = argOf v)
    (hrsv2 : rsv2Of w = rsv2Of v) : w = v :=
  BitVec.eq_of_toNat_eq (by rw [toNat_eq_fields w, toNat_eq_fields v, hopc, hrsv1, harg, hrsv2])

/-! ### The word of a command -/

theorem wellFormed_iff (i : Instr) : i.wellFormed = true ↔ operandOf i < 2 ^ 16 := by
  cases i <;> simp [Instr.wellFormed, operandFits, operandOf]

@[simp] theorem opcOf_encode (i : Instr) : opcOf (encode i) = opcodeOf i := (Laws.fields_of_parts _ _).1
@[simp] theorem rsv1Of_encode (i : Instr) : rsv1Of (encode i) = 0 := (Laws.fields_of_parts _ _).2.1
@[simp] theorem rsv2Of_encode (i : Instr) : rsv2Of (encode i) = 0 := (Laws.fields_of_parts _ _).2.2.2
@[simp] theorem argOf_encode (i : Instr) : argOf (encode i) = BitVec.ofNat 16 (operandOf i) :=
  (Laws.fields_of_parts _ _).2.2.1

/-- An operand that fits ARG is read back from the word (R82). -/
theorem argOf_encode_toNat {i : Instr} (h : i.wellFormed = true) : (argOf (encode i)).toNat = operandOf i := by
  rw [argOf_encode, BitVec.toNat_ofNat]
  exact Nat.mod_eq_of_lt ((wellFormed_iff i).1 h)

/-- `(ARG << 16) | OPC` as a number (R88). -/
theorem encode_toNat {i : Instr} (h : i.wellFormed = true) :
    (encode i).toNat = operandOf i * 2 ^ 16 + (opcodeOf i).toNat := by
  rw [toNat_eq_fields, argOf_encode_toNat h]
  simp

/-! ### The decoder -/

theorem decodeNoOperand_self_iff (w : Word) (i : Instr) : decodeNoOperand w i = .ok i ↔ (argOf w).toNat = 0 := by
  unfold decodeNoOperand
  by_cases h : argOf w = 0
  · simp [h]
  · rw [if_neg h]
    exact iff_of_false nofun fun h0 => h (BitVec.eq_of_toNat_eq h0)

/-- Under a command's own opcode, the decoder gives that command exactly when ARG is its operand (R82, R84, R85). -/
theorem decodeOpcode_ok_iff {w : Word} {i : Instr} (hopc : opcOf w = opcodeOf i) :
    decodeOpcode w = .ok i ↔ (argOf w).toNat = operandOf i := by
  unfold decodeOpcode
  rw [hopc]
  cases i with
  | init v => simp [opcodeOf, operandOf]
  | round n => simp [opcodeOf, operandOf]
  | digest v => simp [opcodeOf, operandOf]
  | _ => exact decodeNoOperand_self_iff w _

/-- What the decoder asks of the four fields (R84 to R87). -/
theorem decode_ok_iff (w : Word) (i : Instr) :
    decode w = .ok i ↔
      rsv2Of w = 0 ∧ rsv1Of w = 0 ∧ opcOf w = opcodeOf i ∧ (argOf w).toNat = operandOf i := by
  constructor
  · intro h
    have hopc : opcOf w = opcodeOf i := (opcodeOf_decode h).symm
    unfold decode at h
    split at h
    · cases h
    split at h
    · cases h
    rename_i hrsv2 hrsv1
    exact ⟨not_not.1 hrsv2, not_not.1 hrsv1, hopc, (decodeOpcode_ok_iff hopc).1 h⟩
  · rintro ⟨hrsv2, hrsv1, hopc, harg⟩
    unfold decode
    rw [if_neg (not_not.2 hrsv2), if_neg (not_not.2 hrsv1)]
    exact (decodeOpcode_ok_iff hopc).2 harg

/-- Settles O2, by the fields of the word: each is the one `decode_ok_iff` asks for. -/
theorem decodeOfEncode : Obligations.DecodeOfEncode := fun i hi =>
  (decode_ok_iff _ i).2 ⟨rsv2Of_encode i, rsv1Of_encode i, opcOf_encode i, argOf_encode_toNat hi⟩

/-! ### Legal words -/

/-- Every opcode from 0x01 to 0x0B has its command (R84); where it takes an operand, take 0. -/
theorem exists_command {opc : Byte} (hlo : 1 ≤ opc.toNat) (hhi : opc.toNat ≤ 0x0B) :
    ∃ i, opc = opcodeOf i ∧ operandOf i = 0 := by
  obtain ⟨n, hn⟩ : ∃ n, opc.toNat = n := ⟨_, rfl⟩
  obtain rfl : opc = BitVec.ofNat 8 n := by rw [← hn, BitVec.ofNat_toNat, BitVec.setWidth_eq]
  rw [hn] at hlo hhi
  interval_cases n
  exacts [⟨.init 0, rfl, rfl⟩, ⟨.pad, rfl, rfl⟩, ⟨.loadblk, rfl, rfl⟩, ⟨.sched, rfl, rfl⟩, ⟨.cstart, rfl, rfl⟩,
    ⟨.round 0, rfl, rfl⟩, ⟨.cfinal, rfl, rfl⟩, ⟨.compress, rfl, rfl⟩, ⟨.block, rfl, rfl⟩, ⟨.finish, rfl, rfl⟩,
    ⟨.digest 0, rfl, rfl⟩]

/-- An opcode of R84 with ARG = 0, or one of the three that take an operand, is a command with ARG as its operand. -/
theorem exists_command_with_operand {opc : Byte} {arg : BitVec 16} (hlo : 1 ≤ opc.toNat) (hhi : opc.toNat ≤ 0x0B)
    (harg : opc = 0x01 ∨ opc = 0x06 ∨ opc = 0x0B ∨ arg = 0) : ∃ i, opc = opcodeOf i ∧ arg.toNat = operandOf i := by
  obtain rfl | rfl | rfl | rfl := harg
  · exact ⟨.init arg.toNat, rfl, rfl⟩
  · exact ⟨.round arg.toNat, rfl, rfl⟩
  · exact ⟨.digest arg.toNat, rfl, rfl⟩
  · obtain ⟨i, hopc, hi⟩ := exists_command hlo hhi
    exact ⟨i, hopc, hi.symm⟩

theorem opcodeOf_bounds (i : Instr) : 1 ≤ (opcodeOf i).toNat ∧ (opcodeOf i).toNat ≤ 0x0B := by
  cases i <;> simp [opcodeOf]

/-- Only INIT, ROUND and DIGEST take an operand (R82). -/
theorem opcodeOf_or_operandOf_eq_zero (i : Instr) :
    opcodeOf i = 0x01 ∨ opcodeOf i = 0x06 ∨ opcodeOf i = 0x0B ∨ operandOf i = 0 := by
  cases i <;> simp [opcodeOf, operandOf]

theorem legalWord_iff (w : Word) :
    legalWord w = true ↔
      rsv2Of w = 0 ∧ rsv1Of w = 0 ∧ 1 ≤ (opcOf w).toNat ∧ (opcOf w).toNat ≤ 0x0B ∧
        (opcOf w = 0x01 ∨ opcOf w = 0x06 ∨ opcOf w = 0x0B ∨ argOf w = 0) := by
  simp only [legalWord, Bool.and_eq_true, Bool.or_eq_true, beq_iff_eq, decide_eq_true_eq, and_assoc, or_assoc]

theorem legalWord_iff_decode (w : Word) : legalWord w = true ↔ ∃ i, decode w = .ok i := by
  rw [legalWord_iff]
  simp only [decode_ok_iff]
  constructor
  · rintro ⟨hrsv2, hrsv1, hlo, hhi, harg⟩
    obtain ⟨i, hi⟩ := exists_command_with_operand hlo hhi harg
    exact ⟨i, hrsv2, hrsv1, hi⟩
  · rintro ⟨i, hrsv2, hrsv1, hopc, harg⟩
    rw [hopc, ← BitVec.toNat_inj (x := argOf w), harg]
    exact ⟨hrsv2, hrsv1, (opcodeOf_bounds i).1, (opcodeOf_bounds i).2, opcodeOf_or_operandOf_eq_zero i⟩

/-- A command the decoder gives has an encoding: its operand is the 16-bit ARG. -/
theorem wellFormed_of_decode {w : Word} {i : Instr} (h : decode w = .ok i) : i.wellFormed = true := by
  obtain ⟨-, -, -, harg⟩ := (decode_ok_iff w i).1 h
  exact (wellFormed_iff i).2 (harg ▸ (argOf w).isLt)

/-- A word is the one word of the command it decodes to. -/
theorem encode_of_decode {w : Word} {i : Instr} (h : decode w = .ok i) : encode i = w := by
  obtain ⟨hrsv2, hrsv1, hopc, harg⟩ := (decode_ok_iff w i).1 h
  refine word_ext ((opcOf_encode i).trans hopc.symm) ((rsv1Of_encode i).trans hrsv1.symm) ?_
    ((rsv2Of_encode i).trans hrsv2.symm)
  exact BitVec.eq_of_toNat_eq ((argOf_encode_toNat (wellFormed_of_decode h)).trans harg.symm)

/-- Settles O3: both legality and decoding are conditions on the fields, and the fields determine the word. -/
theorem decodesExactlyLegalWords : Obligations.DecodesExactlyLegalWords :=
  ⟨legalWord_iff_decode, fun _ _ h => ⟨wellFormed_of_decode h, encode_of_decode h⟩⟩

theorem decode_ne_ok {w : Word} (h : legalWord w = false) (i : Instr) : decode w ≠ .ok i := fun hi => by
  rw [(legalWord_iff_decode w).2 ⟨i, hi⟩] at h
  cases h

/-- Settles O1: the table is read in one direction by evaluation, and back by `decodeOfEncode`. -/
theorem tabulatedWordsDecode : Obligations.TabulatedWordsDecode := by
  refine ⟨fun i hi => encode_toNat hi, fun row hrow => ?_, fun w hw => decode_ne_ok ?_⟩
  · have hword : row.1.wellFormed = true ∧ encode row.1 = row.2 := by
      revert row
      simp [encode, operandOf, opcodeOf, Instr.wellFormed, operandFits]
    exact ⟨hword.2, hword.2 ▸ decodeOfEncode row.1 hword.1⟩
  · revert w
    simp [legalWord, opcOf, rsv1Of, argOf, rsv2Of]

/-! ### The engine's move with a legal word pending -/

theorem performPending_of_decode {s : State} {i : Instr} (h : decode s.pend = .ok i) : performPending s = exec i s := by
  unfold performPending
  rw [h]

/-- With no move left the engine moves, too (assumption 4). -/
theorem nextTurn_engine {s : State} {rest : List Turn} (h : s.turns = .engine :: rest ∨ s.turns = [] ∧ rest = []) :
    nextTurn s = (.engine, { s with turns := rest }) := by
  obtain ⟨hmove, htail⟩ : (nextTurn s).1 = .engine ∧ s.turns.tail = rest := by
    obtain h | ⟨h, rfl⟩ := h <;> simp [nextTurn, h]
  exact Prod.ext hmove (by rw [nextTurn_state, htail])

/-- The engine's move with BUSY = 1 and a legal word pending (R87, R160, R248). -/
theorem step_eq_exec {s : State} {rest : List Turn} {i : Instr} (hbusy : s.status.busy = true)
    (hturns : s.turns = .engine :: rest ∨ s.turns = [] ∧ rest = []) (hdecode : decode s.pend = .ok i) :
    step s = exec i { s with turns := rest } := by
  calc step s = engineTurn { s with turns := rest } := by rw [step, takeNextTurn, nextTurn_engine hturns]; rfl
    _ = performPending { s with turns := rest } := if_pos hbusy
    _ = exec i { s with turns := rest } := performPending_of_decode hdecode

theorem withFetchWord_toNat (s : State) (w : Word) : s.withFetchWord 64 w.toNat = placeCommand w s := by
  rw [State.withFetchWord, Nat.mod_eq_of_lt w.isLt, BitVec.ofNat_toNat, BitVec.setWidth_eq]

/-- Settles O4: a placed word is pending with the engine to move, so its clause is a case of `step_eq_exec`. -/
theorem stepRunsDecodedCommand : Obligations.StepRunsDecodedCommand :=
  ⟨fun _ _ _ hbusy hturns hdecode => step_eq_exec hbusy hturns hdecode,
    fun s w i hdecode => by
      rw [withFetchWord_toNat]
      exact step_eq_exec (s := placeCommand w s) rfl (.inl rfl) hdecode⟩

end Sys2Proof

/-! SUPPORT. The WordCodec and the reference Padder (spec 40_codec_padder_segmenter.md R100 to R107): the codec's two functions
undo each other, word by word and byte by byte, and the parts and sizes of Pad(M). -/

namespace Sys2Proof.Machine

/-! ### The WordCodec -/

/-- A word is made of its own eight bytes, its digits to the base 256 (R100, R101). -/
theorem wordOfBytes_byteOfWord (x : Word) :
    wordOfBytes (byteOfWord x 0) (byteOfWord x 1) (byteOfWord x 2) (byteOfWord x 3) (byteOfWord x 4) (byteOfWord x 5)
      (byteOfWord x 6) (byteOfWord x 7) = x := by
  have hdigits : x.toNat % 256 ^ 8 = x.toNat := Nat.mod_eq_of_lt x.isLt
  apply BitVec.eq_of_toNat_eq
  rw [wordOfBytes_toNat, ← hdigits]
  simp only [byteOfWord_toNat, Nat.reduceLT, Nat.reduceSub, Nat.mod_pow_succ, pow_zero, Nat.mod_one]
  ring

/-- Byte k of the word made of eight bytes is the k-th of them (R100, R101). -/
theorem byteOfWord_wordOfBytes (b : Fin 8 → Byte) (k : Fin 8) :
    byteOfWord (wordOfBytes (b 0) (b 1) (b 2) (b 3) (b 4) (b 5) (b 6) (b 7)) k = b k := by
  apply BitVec.eq_of_toNat_eq
  have hb (i : Fin 8) : (b i).toNat < 256 := (b i).isLt
  have h0 := hb 0; have h1 := hb 1; have h2 := hb 2; have h3 := hb 3
  have h4 := hb 4; have h5 := hb 5; have h6 := hb 6; have h7 := hb 7
  rw [byteOfWord_toNat _ _ k.isLt, wordOfBytes_toNat]
  fin_cases k <;> simp <;> omega

/-- WordsToBytes puts byte k of word i at place 8i + k (R101). -/
theorem wordsToBytes_getElem_add {n : Nat} (w : Vector Word n) {i k : Nat} (hi : i < n) (hk : k < 8) :
    (wordsToBytes w)[8 * i + k] = byteOfWord w[i] k := by
  have hdiv : (8 * i + k) / 8 = i := by omega
  have hmod : (8 * i + k) % 8 = k := by omega
  simp only [wordsToBytes_getElem, hdiv, hmod]

theorem bytesToWords_wordsToBytes {n : Nat} (w : Vector Word n) : bytesToWords (wordsToBytes w) = w := by
  ext i hi : 1
  have hfirst : (wordsToBytes w)[8 * i] = byteOfWord w[i] 0 := wordsToBytes_getElem_add (k := 0) w hi (by decide)
  rw [bytesToWords_getElem]
  simp only [hfirst, wordsToBytes_getElem_add w hi, Nat.reduceLT]
  exact wordOfBytes_byteOfWord w[i]

theorem wordsToBytes_bytesToWords {n : Nat} (b : Vector Byte (8 * n)) : wordsToBytes (bytesToWords b) = b := by
  ext j hj : 1
  have hword : 8 * (j / 8) + j % 8 = j := Nat.div_add_mod j 8
  calc (wordsToBytes (bytesToWords b))[j]
      = byteOfWord ((bytesToWords b)[j / 8]'(by omega)) (j % 8) := wordsToBytes_getElem _ j hj
    _ = b[8 * (j / 8) + j % 8] := by
        rw [bytesToWords_getElem]
        exact byteOfWord_wordOfBytes (fun k => b[8 * (j / 8) + k.val]) ⟨j % 8, Nat.mod_lt _ (by decide)⟩
    _ = b[j] := by simp only [hword]

/-- Settles O8: `bytesToWords_wordsToBytes` and `wordsToBytes_bytesToWords`. -/
theorem wordCodecInverses : Obligations.WordCodecInverses :=
  ⟨fun _ w => bytesToWords_wordsToBytes w, fun _ b => wordsToBytes_bytesToWords b⟩

/-! ### The padded length -/

/-- Settles O9: 8 * PLEN(L) is a multiple of 1024 less than 1024 above 8L + 129. -/
theorem paddedLengthIsLeast : Obligations.PaddedLengthIsLeast := by
  intro len
  have hmod := paddedLength_mod len
  have hge := paddedLength_ge len
  have hlt := paddedLength_lt len
  exact ⟨by omega, by omega, fun m hm hle => by omega⟩

/-! ### Pad(M) -/

/-- The zero bytes of R106, counted without PLEN. -/
theorem zeroCount_eq (len : Nat) : zeroCount len = (128 - (len + 17) % 128) % 128 := by
  unfold zeroCount paddedLength
  omega

theorem zeroCount_le (len : Nat) : zeroCount len ≤ 127 := by
  have := zeroCount_add len
  have := paddedLength_lt len
  omega

theorem refPad_eq (m : List Byte) :
    refPad m = m ++ [0x80] ++ List.replicate (zeroCount m.length) 0x00 ++ lengthField m.length := by
  rw [zeroCount_eq]
  rfl

theorem refPad_length (m : List Byte) : (refPad m).length = paddedLength m.length := by
  rw [refPad_eq, ← zeroCount_add]
  simp only [List.length_append, List.length_singleton, List.length_replicate, lengthField_length]

/-- Reading BE_n(v) byte by byte, behind the value `a` of the bytes before it (R12). -/
theorem foldl_bigEndian (n v a : Nat) :
    (bigEndian n v).foldl (fun n b => 256 * n + b.toNat) a = 256 ^ n * a + v % 256 ^ n := by
  induction n generalizing a with
  | zero => simp [bigEndian, Nat.mod_one]
  | succ n ih =>
    calc (bigEndian (n + 1) v).foldl (fun n b => 256 * n + b.toNat) a
        = 256 ^ n * (256 * a + v / 256 ^ n % 256) + v % 256 ^ n := ih _
      _ = 256 ^ (n + 1) * a + v % 256 ^ (n + 1) := by
        rw [Nat.pow_succ, Nat.mod_mul]
        ring

/-- The 16 bytes of the length field hold 8L while 8L is below 2^128 (R104). -/
theorem foldl_lengthField {len : Nat} (h : 8 * len < 2 ^ 128) :
    (lengthField len).foldl (fun n b => 256 * n + b.toNat) 0 = 8 * len := by
  rw [lengthField, foldl_bigEndian, Nat.mul_zero, Nat.zero_add]
  exact Nat.mod_eq_of_lt h

/-- Settles O10: the parts are those of `refPad_eq`, and the sizes follow from `refPad_length`. -/
theorem padOfMessageProperties : Obligations.PadOfMessageProperties := by
  intro m hm
  have hmod := paddedLength_mod m.length
  have hge := paddedLength_ge m.length
  have hlt := paddedLength_lt m.length
  refine ⟨zeroCount m.length, lengthField m.length, refPad_eq m, zeroCount_le _, lengthField_length _,
    foldl_lengthField hm, refPad_length m, ?_⟩
  rw [refPad_length]
  omega

end Sys2Proof.Machine


/-! SUPPORT. The MessageScheduler and the CompressionEngine (spec 41_scheduler_compression.md R120 to R130): the word operations
bit by bit, the words of the schedule, and ROUND 1. -/

namespace Sys2Proof.Machine

/-! ### The word operations -/

theorem shr_toNat (n : Nat) (x : Word) : (shr n x).toNat = x.toNat / 2 ^ n := by
  rw [shr, BitVec.toNat_ushiftRight, Nat.shiftRight_eq_div_pow]

theorem shr_getLsbD (n : Nat) (x : Word) (i : Nat) : (shr n x).getLsbD i = x.getLsbD (i + n) := by
  rw [shr, BitVec.getLsbD_ushiftRight, Nat.add_comm]

/-- The right shift gives the bits below 64 - n, and the left shift those from 64 - n on. -/
theorem rotr_getLsbD {n i : Nat} (hn : 0 < n) (hn' : n < 64) (hi : i < 64) (x : Word) :
    (rotr n x).getLsbD i = x.getLsbD ((i + n) % 64) := by
  rw [rotr, BitVec.getLsbD_or, shr_getLsbD, BitVec.getLsbD_shiftLeft]
  by_cases hlow : i + n < 64
  · have hleft : i < 64 - n := by omega
    simp [hleft, Nat.mod_eq_of_lt hlow]
  · have hleft : ¬ i < 64 - n := by omega
    have hout : x.getLsbD (i + n) = false := BitVec.getLsbD_of_ge x (i + n) (by omega)
    have hwrap : (i + n) % 64 = i - (64 - n) := by omega
    simp [hleft, hi, hout, hwrap]

theorem ch_getLsbD (x y z : Word) {i : Nat} (hi : i < 64) :
    (ch x y z).getLsbD i = if x.getLsbD i then y.getLsbD i else z.getLsbD i := by
  simp only [ch, BitVec.getLsbD_xor, BitVec.getLsbD_and, BitVec.getLsbD_not, hi]
  cases x.getLsbD i <;> simp

theorem maj_getLsbD (x y z : Word) (i : Nat) :
    (maj x y z).getLsbD i =
      (x.getLsbD i && y.getLsbD i || x.getLsbD i && z.getLsbD i || y.getLsbD i && z.getLsbD i) := by
  simp only [maj, BitVec.getLsbD_xor, BitVec.getLsbD_and]
  cases x.getLsbD i <;> cases y.getLsbD i <;> cases z.getLsbD i <;> rfl

/-- Settles O6: each operation by its own lemma, and each sigma function by the bits of its rotations and its shift. -/
theorem wordOperationsByBits : Obligations.WordOperationsByBits := by
  refine ⟨fun n x hn hn' => ⟨shr_toNat n x, fun i hi => rotr_getLsbD hn hn' hi x⟩,
    fun x y z i hi => ⟨ch_getLsbD x y z hi, maj_getLsbD x y z i⟩, fun x i hi => ⟨?_, ?_, ?_, ?_⟩⟩
  · simp only [sigma0, BitVec.getLsbD_xor, rotr_getLsbD, shr_getLsbD, hi, Nat.reduceLT]
  · simp only [sigma1, BitVec.getLsbD_xor, rotr_getLsbD, shr_getLsbD, hi, Nat.reduceLT]
  · simp only [bigSigma0, BitVec.getLsbD_xor, rotr_getLsbD, hi, Nat.reduceLT]
  · simp only [bigSigma1, BitVec.getLsbD_xor, rotr_getLsbD, hi, Nat.reduceLT]

/-! ### The message schedule -/

/-- The last word an extension adds follows from the words before it (R129). -/
theorem extendSchedule_succ (n : Nat) (recent : List Word) :
    extendSchedule (n + 1) recent = nextScheduleWord (extendSchedule n recent) :: extendSchedule n recent := by
  induction n generalizing recent with
  | zero => rfl
  | succ n ih => exact ih (nextScheduleWord recent :: recent)

/-- A word keeps its value and moves k places towards the end while k more words are added in front of it. -/
theorem extendSchedule_getD_add (n k j : Nat) (recent : List Word) :
    (extendSchedule (n + k) recent).getD (j + k) 0 = (extendSchedule n recent).getD j 0 := by
  induction k with
  | zero => rfl
  | succ k ih => rw [← Nat.add_assoc, extendSchedule_succ, ← Nat.add_assoc, List.getD_cons_succ, ih]

/-- W[t] of the schedule is word t as soon as the list has it: with n words added to the block's 16, the word at place n + 15 - t. -/
theorem schedule_getElem (b : Vector Word 16) (n j : Nat) {t : Nat} (ht : t < 80) (hn : n ≤ 64) (hj : t + j = n + 15) :
    (schedule b)[t] = (extendSchedule n b.toList.reverse).getD j 0 := by
  obtain ⟨k, hk⟩ := Nat.exists_eq_add_of_le hn
  have hlen : (extendSchedule 64 b.toList.reverse).length = 80 := by simp [extendSchedule_length]
  have hplace : 80 - 1 - t = j + k := by omega
  calc (schedule b)[t]
      = (extendSchedule 64 b.toList.reverse).reverse[t]'(by simp [hlen, ht]) := by simp [schedule]
    _ = (extendSchedule 64 b.toList.reverse).getD (80 - 1 - t) 0 := by
        rw [List.getElem_reverse, List.getD_eq_getElem _ _ (by omega)]
        simp only [hlen]
    _ = (extendSchedule n b.toList.reverse).getD j 0 := by rw [hplace, ← extendSchedule_getD_add n k j, ← hk]

theorem schedule_first (b : Vector Word 16) {t : Nat} (ht : t < 16) : (schedule b)[t] = b[t] := by
  rw [schedule_getElem b 0 (15 - t) (by omega) (by omega) (by omega), extendSchedule,
    List.getD_eq_getElem _ _ (by simp; omega), List.getElem_reverse]
  have hplace : 16 - 1 - (15 - t) = t := by omega
  simp [hplace]

/-- With W[0] to W[t-1] in the list, W[t-2], W[t-7], W[t-15] and W[t-16] stand at the places that R129's next word reads. -/
theorem schedule_recurrence (b : Vector Word 16) {t : Nat} (h16 : 16 ≤ t) (ht : t < 80) :
    (schedule b)[t] =
      sigma1 (schedule b)[t - 2] + (schedule b)[t - 7] + sigma0 (schedule b)[t - 15] + (schedule b)[t - 16] := by
  rw [schedule_getElem b (t - 16 + 1) 0 ht (by omega) (by omega), extendSchedule_succ, List.getD_cons_zero, nextScheduleWord,
    schedule_getElem b (t - 16) 1 (t := t - 2) (by omega) (by omega) (by omega),
    schedule_getElem b (t - 16) 6 (t := t - 7) (by omega) (by omega) (by omega),
    schedule_getElem b (t - 16) 14 (t := t - 15) (by omega) (by omega) (by omega),
    schedule_getElem b (t - 16) 15 (t := t - 16) (by omega) (by omega) (by omega)]

/-- Settles O7: `schedule_first` and `schedule_recurrence`. -/
theorem scheduleRecurrence : Obligations.ScheduleRecurrence := fun b =>
  ⟨fun _ ht => schedule_first b ht, fun _ h16 ht => schedule_recurrence b h16 ht⟩

/-! ### ROUND -/

/-- ROUND n with every check passed, in a state the frame has left. -/
theorem roundBody_acted {n : Nat} {s : State} (hv : s.variant ≠ 0) (hc : s.status.cact = true) (hn : 1 ≤ n)
    (hle : s.tcnt.toNat + n ≤ 80) : roundBody n s = .acted (advanceRounds n s) := by
  obtain ⟨hv' | hc' | hn' | hgt, -⟩ | ⟨-, -, -, -, hb⟩ := roundBody_cases n s
  · exact absurd hv' hv
  · cases hc.symm.trans hc'
  · omega
  · omega
  · exact hb

/-- ROUND n that passes the gate and its checks: DONE is cleared and the rounds are run (R160, R166). -/
theorem execRound_acted {n : Nat} {s : State} (he : s.status.errcode = 0) (hv : s.variant ≠ 0) (hc : s.status.cact = true)
    (hn : 1 ≤ n) (hle : s.tcnt.toNat + n ≤ 80) :
    exec (.round n) s =
      .next (endCommand (advanceRounds n { s with status := { s.status with done := false } })) := by
  have hframe : openFrame 0x06 s = { s with status := { s.status with done := false } } :=
    openFrame_plain restarts_round (by decide) s
  exact exec_acted (i := .round n) (.inl he) ((congrArg (roundBody n) hframe).trans (roundBody_acted hv hc hn hle))

/-- One round of a run is the round of R130 with W[t] and K[t]. -/
theorem runRounds_one (w : Vector Word 80) {t : Nat} (ht : t < 80) (r : WorkRegs) :
    runRounds w 1 t r = shaRound r w[t] (roundConstant t) := by
  rw [← wordAt_eq w t ht]
  rfl

/-- Settles O20: `execRound_acted` for one round, which `runRounds_one` writes out. -/
theorem roundOneFollowsFormula : Obligations.RoundOneFollowsFormula := by
  intro s t ht he hv hc htcnt
  rw [execRound_acted he hv hc (Nat.le_refl 1) (by omega), endCommand, advanceRounds]
  simp only [htcnt, runRounds_one s.w ht, shaRound]

end Sys2Proof.Machine

/-! SUPPORT. The VariantConfig (spec 42_variant_config.md R140 to R154): the selectors, the two constant tables, and the digest as a
function of the message. -/

namespace Sys2Proof.Machine

/-! ### The selectors -/

theorem variantOf_eq_some_iff (v : Nat) (x : Variant) : variantOf v = some x ↔ v = variantBits x :=
  ⟨variantOf_some, fun h => h ▸ variantOf_bits x⟩

theorem variantBits_injective {x y : Variant} (h : variantBits x = variantBits y) : x = y :=
  Option.some.inj (((variantOf_bits x).symm.trans (congrArg variantOf h)).trans (variantOf_bits y))

theorem variantOf_isSome_iff (v : Nat) :
    (variantOf v).isSome = true ↔ v = 224 ∨ v = 256 ∨ v = 384 ∨ v = 512 := by
  rw [← Option.ne_none_iff_isSome, ne_eq, variantOf_none, not_not]
  simp

/-- No two of the four initial states agree in H[0] (R144). -/
theorem initialHash_first_injective {x y : Variant} (h : (initialHash x)[0] = (initialHash y)[0]) : x = y := by
  revert h
  cases x <;> cases y <;> decide

/-- Settles O13: selectors by `variantOf_eq_some_iff` and `variantOf_isSome_iff`, initial states by `initialHash_first_injective`. -/
theorem legalSelectorsAreFour : Obligations.LegalSelectorsAreFour :=
  ⟨variantOf_eq_some_iff, variantOf_isSome_iff, fun x => by cases x <;> rfl, fun _ _ => initialHash_first_injective⟩

/-! ### The constant tables -/

/-- Settles O11: the table is finite, and so is the search for the integer part of each root, so that the kernel evaluates the
bracket of every row. -/
theorem roundConstantsAreCubeRoots : Obligations.RoundConstantsAreCubeRoots := by
  unfold Obligations.RoundConstantsAreCubeRoots
  decide +kernel

/-- IV'' of R145: IV_512 with every word exclusive-ored with 0xA5A5A5A5A5A5A5A5. -/
def maskedInitialHash : Vector Word 8 := (initialHash .v512).map (· ^^^ 0xA5A5A5A5A5A5A5A5)

/-- The hash of "SHA-512/224" from IV'' is IV_224 (R145). -/
theorem refChain_sha512_224 :
    refChain (refPad [0x53, 0x48, 0x41, 0x2D, 0x35, 0x31, 0x32, 0x2F, 0x32, 0x32, 0x34]) maskedInitialHash 1 =
      initialHash .v224 := by
  decide +kernel

/-- The hash of "SHA-512/256" from IV'' is IV_256 (R145). -/
theorem refChain_sha512_256 :
    refChain (refPad [0x53, 0x48, 0x41, 0x2D, 0x35, 0x31, 0x32, 0x2F, 0x32, 0x35, 0x36]) maskedInitialHash 1 =
      initialHash .v256 := by
  decide +kernel

/-- Settles O12: the kernel evaluates the brackets of the sixteen square roots; the two hashes are `refChain_sha512_224` and
`refChain_sha512_256`. -/
theorem initialHashDefinitions : Obligations.InitialHashDefinitions :=
  by
  unfold Obligations.InitialHashDefinitions
  rw [← maskedInitialHash]
  exact ⟨by decide +kernel, by decide +kernel, refChain_sha512_224, refChain_sha512_256⟩

/-! ### The padded message in MSG -/

/-- What padding puts behind a message of `len` bytes: 0x80, the zero bytes and the length field (R106). -/
def paddingBytes (len : Nat) : List Byte := [0x80] ++ (List.replicate (zeroCount len) 0x00 ++ lengthField len)

theorem refPad_eq_append (m : List Byte) : refPad m = m ++ paddingBytes m.length := by
  rw [refPad_eq, paddingBytes, List.append_assoc, List.append_assoc]

theorem paddingBytes_length (len : Nat) : len + (paddingBytes len).length = paddedLength len := by
  rw [← zeroCount_add]
  simp only [paddingBytes, List.length_append, List.length_singleton, List.length_replicate, lengthField_length]
  omega

/-- Two MemWrites end to end are one. -/
theorem storeBytes_append (m : Mem) (off : Nat) (l r : List Byte) :
    Mem.storeBytes m off (l ++ r) = Mem.storeBytes (Mem.storeBytes m off l) (off + l.length) r := by
  induction l generalizing m off with
  | nil => rfl
  | cons b l ih =>
    rw [List.cons_append, Mem.storeBytes, ih, Mem.storeBytes, List.length_cons, Nat.add_assoc off 1, Nat.add_comm 1]

/-- The three MemWrites of R162 are one, of all the padding. -/
theorem padMemory_eq_storeBytes (m : Mem) (len : Nat) : padMemory m len = Mem.storeBytes m len (paddingBytes len) := by
  have hfield : len + 1 + zeroCount len = paddedLength len - 16 := by have := zeroCount_add len; omega
  rw [paddingBytes, storeBytes_append, storeBytes_append, List.length_singleton, List.length_replicate, hfield]
  unfold padMemory
  rfl

@[simp] theorem messageBytes_length (s : State) : (messageBytes s).length = s.mlen.toNat := by simp [messageBytes]

theorem messageBytes_congr {s t : State} (hlen : s.mlen = t.mlen)
    (hbyte : ∀ a, a < s.mlen.toNat → msgByte s a = msgByte t a) : messageBytes s = messageBytes t := by
  rw [messageBytes, messageBytes, ← hlen]
  exact List.map_congr_left fun a ha => hbyte a (List.mem_range.1 ha)

/-- PAD leaves Pad(M) in MSG[0..PLEN) (R106, R162). -/
theorem msgByte_padMessage (s : State) {a : Nat} (ha : a < paddedLength s.mlen.toNat) :
    msgByte (padMessage s) a = (refPad (messageBytes s)).getD a 0 := by
  have hlen := paddingBytes_length s.mlen.toNat
  rw [msgByte_eq, padMessage_msg, padMemory_eq_storeBytes, refPad_eq_append, messageBytes_length]
  by_cases hmsg : a < s.mlen.toNat
  · rw [find_storeBytes_outside (.inl hmsg), List.getD_append _ _ _ _ (by simpa using hmsg), padMessage_epoch, ← msgByte_eq]
    simp [messageBytes, hmsg]
  · rw [find_storeBytes, dif_pos ⟨by omega, by omega⟩, List.getD_append_right _ _ _ _ (by simp; omega), messageBytes_length,
      List.getD_eq_getElem _ _ (by omega), Option.getD_some]

/-! ### The blocks and the chain -/

theorem blockWords_eq_refBlock {s : State} {p : List Byte} {i : Nat}
    (h : ∀ j, j < 128 → msgByte s (128 * i + j) = p.getD (128 * i + j) 0) : blockWords s i = refBlock p i := by
  rw [blockWords, refBlock, memRead]
  exact congrArg (fun f => bytesToWords (n := 16) (Vector.ofFn f)) (funext fun j => h j j.isLt)

/-- Blocks 0 .. n - 1 of a MSG that starts with `p` chain as those of `p` do (R111, R134). -/
theorem processBlocks_h {s : State} {p : List Byte} (hb : s.bidx = 0) {n : Nat} (hn : n < 2 ^ 64)
    (h : ∀ a, a < 128 * n → msgByte s a = p.getD a 0) : (processBlocks n s).h = refChain p s.h n := by
  induction n with
  | zero => rfl
  | succ n ih =>
    have hidx : (processBlocks n s).bidx.toNat = n := by
      simpa [processBlocks_bidx, hb] using Nat.lt_of_succ_lt hn
    have hblock : blockWords s n = refBlock p n := blockWords_eq_refBlock fun j hj => h _ (by omega)
    rw [processBlocks_succ, processBlock_h, hidx, blockWords_congr (processBlocks_msg n s) (processBlocks_epoch n s), hblock,
      ih (by omega) fun a ha => h a (by omega), refChain]

/-! ### DIGEST -/

/-- The final H of a message that fits is the source's hash of it (R134, R171). -/
theorem digestMessage_h (x : Variant) {s : State} (hfit : paddedLength s.mlen.toNat ≤ s.capacity.toNat) :
    (digestMessage x s).h = refHash (messageBytes s) x := by
  have hcap := s.capacity.isLt
  have hdiv := paddedLength_div s.mlen.toNat
  have hnblk : (padMessage (loadVariant x s)).nblk.toNat = paddedLength s.mlen.toNat / 128 := by
    rw [padMessage_nblk, loadVariant_mlen, BitVec.toNat_ofNat, Nat.mod_eq_of_lt (by omega)]
  rw [digestMessage_eq, writeDigest_h, hnblk, refHash, refPad_length, messageBytes_length]
  exact processBlocks_h rfl (by omega) fun a ha => msgByte_padMessage (loadVariant x s) (by rw [loadVariant_mlen]; omega)

/-- Everything but H that a read of the digest depends on (R54, R171). -/
theorem digestMessage_window (x : Variant) (s : State) :
    (digestMessage x s).dbuf = wordsToBytes (n := 8) (digestMessage x s).h ∧
      (digestMessage x s).outlen = BitVec.ofNat 64 (variantBytes x) ∧ (digestMessage x s).status.done = true := by
  rw [digestMessage_eq, processBlocks_frame]
  exact ⟨rfl, rfl, rfl⟩

theorem errorCode_ne_zero (e : ErrorName) : errorCode e ≠ 0 := by
  cases e <;> decide

/-- A DIGEST that leaves no error has acted: the gate does not stop it, and an error it raises is latched (R160, R205, R206). -/
theorem execDigest_acted {x : Variant} {s t : State} (h : exec (.digest (variantBits x)) s = .next t)
    (he : t.status.errcode = 0) :
    paddedLength s.mlen.toNat ≤ s.capacity.toNat ∧ t = endCommand (digestMessage x (openFrame 0x0B s)) := by
  rw [exec_eq_body] at h
  obtain ⟨hg, -⟩ | ⟨-, u, hb, rfl⟩ | ⟨-, e, -, rfl⟩ := perform_cases h
  · exact absurd (gateClosed_eq_false (.inr restarts_digest)) (by simpa [opcodeOf] using hg)
  · obtain ⟨y, hy, hfit, rfl⟩ := acts_of_bodyOf hb
    obtain rfl := variantBits_injective hy
    exact ⟨by simpa using hfit, rfl⟩
  · exact absurd he (errorCode_ne_zero e)

/-- What a DIGEST that leaves no error shows: the source's hash of the message, in H and in the whole DBUF, with OUTLEN and DONE
set (R152, R171). -/
theorem execDigest_shows {x : Variant} {s t : State} (h : exec (.digest (variantBits x)) s = .next t)
    (he : t.status.errcode = 0) :
    t.h = refHash (messageBytes s) x ∧ t.dbuf = wordsToBytes (n := 8) (refHash (messageBytes s) x) ∧
      t.outlen = BitVec.ofNat 64 (variantBytes x) ∧ t.status.done = true := by
  obtain ⟨hfit, rfl⟩ := execDigest_acted h he
  obtain ⟨hdbuf, houtlen, hdone⟩ := digestMessage_window x (openFrame 0x0B s)
  have hmsg : messageBytes (openFrame 0x0B s) = messageBytes s :=
    messageBytes_congr (by simp) fun a _ => msgByte_congr (by simp) (by simp)
  have hh : (digestMessage x (openFrame 0x0B s)).h = refHash (messageBytes s) x := by
    rw [digestMessage_h x (by simpa using hfit), hmsg]
  exact ⟨hh, hdbuf.trans (congrArg _ hh), houtlen, hdone⟩

/-- Settles O29: both digests are the source's hash of the same message, by `execDigest_shows`. -/
theorem digestIsFunctionOfMessage : Obligations.DigestIsFunctionOfMessage := by
  intro x s s' t t' hlen hbyte ht ht' he he'
  obtain ⟨hh, hdbuf, houtlen, hdone⟩ := execDigest_shows ht he
  obtain ⟨hh', hdbuf', houtlen', hdone'⟩ := execDigest_shows ht' he'
  have hmsg : messageBytes s = messageBytes s' := messageBytes_congr hlen hbyte
  rw [← hmsg] at hh' hdbuf'
  have hdbufs : t.dbuf = t'.dbuf := hdbuf.trans hdbuf'.symm
  refine ⟨hh.trans hh'.symm, hdbufs, fun j => ?_⟩
  rw [readDout, readDout, hdone, hdone', houtlen, houtlen', hdbufs]

end Sys2Proof.Machine

/-! SUPPORT. The frame of R160 around a command that acts or fails, said once, and the commands that touch neither MSG nor the
variant (spec 43_commands.md R164 to R168, R170): each one's end state when it acts and when it fails. -/

namespace Sys2Proof.Machine

/-! ### The frame's own writes -/

/-- DONE <- 0, what the frame of a command other than INIT, FINISH and DIGEST writes before the checks (R160). -/
def clearDone (s : State) : State := { s with status := { s.status with done := false } }

/-- Everything the frame of such a command writes when its checks pass: DONE <- 0 and, at the end, BUSY <- 0 (R160). -/
def settled (s : State) : State := endCommand (clearDone s)

/-- Everything the frame of INIT and DIGEST writes when their checks pass: ERRCODE, DONE, CMDOVR and WROVR before the checks, and
BUSY at the end (R160). -/
def restarted (s : State) : State := endCommand (openFrame 0x0B s)

theorem openFrame_opcodeOf {i : Instr} (hr : clearsErrors i = false) (hf : i ≠ .finish) (s : State) :
    openFrame (opcodeOf i) s = clearDone s :=
  openFrame_plain ((restarts_opcodeOf i).trans hr) (by cases i <;> simp_all [opcodeOf]) s

theorem openFrame_restarts {i : Instr} (hr : clearsErrors i = true) (s : State) :
    openFrame (opcodeOf i) s = openFrame 0x0B s := by
  rw [openFrame_restart ((restarts_opcodeOf i).trans hr), openFrame_restart (opc := 0x0B) rfl]

@[simp] theorem restarted_mlen (s : State) : (restarted s).mlen = s.mlen := openFrame_mlen _ s
@[simp] theorem restarted_capacity (s : State) : (restarted s).capacity = s.capacity := openFrame_capacity _ s
@[simp] theorem restarted_msg (s : State) : (restarted s).msg = s.msg := openFrame_msg _ s
@[simp] theorem restarted_epoch (s : State) : (restarted s).epoch = s.epoch := openFrame_epoch _ s
@[simp] theorem restarted_errcode (s : State) : (restarted s).status.errcode = 0 :=
  openFrame_errcode (opc := 0x0B) (s := s) (gateClosed_eq_false (.inr restarts_digest))

/-- The frame of INIT and DIGEST, for a command not started early (R160). -/
theorem restarted_eq {s : State} (hbegun : s.begun = false) :
    restarted s =
      { s with
        begun := false
        status := { s.status with
          busy := false, done := false, errcode := 0, cmdovr := false, wrovr := false } } := by
  rw [restarted, openFrame_restart (opc := 0x0B) rfl, hbegun]
  rfl

/-- A word whose OPC is not INIT's or DIGEST's, that fails with no error latched (R160, R206, R207). -/
theorem perform_failed {opc : Byte} {body : State → Verdict} {s : State} {e : ErrorName} (hr : restarts opc = false)
    (he : s.status.errcode = 0) (hb : body (openFrame opc s) = .raised e) :
    perform opc body s = .next (s.failed (errorCode e)) := by
  rw [perform_raised (gateClosed_eq_false (.inl he)) hb, openFrame_eq]
  simp only [hr]
  rfl

/-- A word with INIT's or DIGEST's OPC that fails, not started early (R160, R206, R207). -/
theorem perform_restartFailed {opc : Byte} {body : State → Verdict} {s : State} {e : ErrorName}
    (hr : restarts opc = true) (hbegun : s.begun = false) (hb : body (openFrame opc s) = .raised e) :
    perform opc body s = .next (s.restartFailed (errorCode e)) := by
  rw [perform_raised (gateClosed_eq_false (.inr hr)) hb, openFrame_restart hr, hbegun]
  rfl

theorem exec_failed {i : Instr} {s : State} {e : ErrorName} (hr : clearsErrors i = false) (he : s.status.errcode = 0)
    (hb : bodyOf i (openFrame (opcodeOf i) s) = .raised e) : exec i s = .next (s.failed (errorCode e)) :=
  (exec_eq_body i s).trans (perform_failed ((restarts_opcodeOf i).trans hr) he hb)

theorem exec_restartFailed {i : Instr} {s : State} {e : ErrorName} (hr : clearsErrors i = true)
    (hbegun : s.begun = false) (hb : bodyOf i (openFrame (opcodeOf i) s) = .raised e) :
    exec i s = .next (s.restartFailed (errorCode e)) :=
  (exec_eq_body i s).trans (perform_restartFailed ((restarts_opcodeOf i).trans hr) hbegun hb)

/-- A command other than INIT, FINISH and DIGEST that acts: its effects `f` do not touch what ends a command. -/
theorem exec_settled {i : Instr} {f : State → State} {s : State} (hr : clearsErrors i = false) (hf : i ≠ .finish)
    (hcomm : ∀ u, endCommand (f u) = f (endCommand u)) (he : s.status.errcode = 0)
    (hb : bodyOf i (clearDone s) = .acted (f (clearDone s))) : exec i s = .next (f (settled s)) := by
  rw [exec_acted (.inl he) ((congrArg (bodyOf i) (openFrame_opcodeOf hr hf s)).trans hb), hcomm, settled]

/-- An INIT or DIGEST that acts: its effects `f` do not touch what ends a command. -/
theorem exec_restarted {i : Instr} {f : State → State} {s : State} (hr : clearsErrors i = true)
    (hcomm : ∀ u, endCommand (f u) = f (endCommand u))
    (hb : bodyOf i (openFrame 0x0B s) = .acted (f (openFrame 0x0B s))) : exec i s = .next (f (restarted s)) := by
  rw [exec_acted (.inr hr) ((congrArg (bodyOf i) (openFrame_restarts hr s)).trans hb), hcomm, restarted]

/-! ### The four commands that ask only for a variant and CACT = 0 -/

/-- The checks of SCHED, CSTART, COMPRESS and FINISH, before the effects `f` (R164, R165, R168, R170). -/
def whenIdle (f : State → State) (s : State) : Verdict :=
  if s.variant = 0 then .raised .sequenceError
  else if s.status.cact then .raised .sequenceError
  else .acted (f s)

theorem bodyOf_sched : bodyOf .sched = whenIdle expandBlock := rfl
theorem bodyOf_cstart : bodyOf .cstart = whenIdle startCompression := rfl
theorem bodyOf_compress : bodyOf .compress = whenIdle compressBlock := rfl
theorem bodyOf_finish : bodyOf .finish = whenIdle writeDigest := rfl

theorem whenIdle_raised (f : State → State) {s : State} (h : s.variant = 0 ∨ s.status.cact = true) :
    whenIdle f s = .raised .sequenceError := by
  unfold whenIdle
  obtain hv | hc := h
  · exact if_pos hv
  · rw [if_pos hc, ite_self]

theorem whenIdle_acted (f : State → State) {s : State} (hv : s.variant ≠ 0) (hc : s.status.cact = false) :
    whenIdle f s = .acted (f s) := by
  rw [whenIdle, if_neg hv, if_neg (by simp [hc])]

section
variable {i : Instr} {f : State → State} {s : State}

theorem exec_whenIdle_failed (hbody : bodyOf i = whenIdle f) (hr : clearsErrors i = false) (he : s.status.errcode = 0)
    (h : s.variant = 0 ∨ s.status.cact = true) : exec i s = .next (s.failed 6) :=
  exec_failed hr he (e := .sequenceError) (by rw [hbody]; exact whenIdle_raised f (by simpa using h))

theorem exec_whenIdle_settled (hbody : bodyOf i = whenIdle f) (hr : clearsErrors i = false) (hf : i ≠ .finish)
    (hcomm : ∀ u, endCommand (f u) = f (endCommand u)) (he : s.status.errcode = 0) (hv : s.variant ≠ 0)
    (hc : s.status.cact = false) : exec i s = .next (f (settled s)) :=
  exec_settled hr hf hcomm he (by rw [hbody]; exact whenIdle_acted f hv hc)

end

section
variable {s : State} (he : s.status.errcode = 0) (hv : s.variant ≠ 0) (hc : s.status.cact = false)
include he hv hc

theorem execSched_acted : exec .sched s = .next (expandBlock (settled s)) :=
  exec_whenIdle_settled bodyOf_sched rfl (by decide) (fun _ => rfl) he hv hc

theorem execCstart_acted : exec .cstart s = .next (startCompression (settled s)) :=
  exec_whenIdle_settled bodyOf_cstart rfl (by decide) (fun _ => rfl) he hv hc

theorem execCompress_acted : exec .compress s = .next (compressBlock (settled s)) :=
  exec_whenIdle_settled bodyOf_compress rfl (by decide) (fun _ => rfl) he hv hc

/-- FINISH does not clear DONE first (R160, R170). -/
theorem execFinish_acted : exec .finish s = .next (endCommand (writeDigest s)) := by
  refine exec_acted (.inl he) ?_
  rw [bodyOf_finish]
  exact (congrArg (whenIdle writeDigest) (openFrame_finish s)).trans (whenIdle_acted writeDigest hv hc)

end

/-- Settles O18: the checks are those of `whenIdle`. -/
theorem schedChecksAndEffects : Obligations.SchedChecksAndEffects := fun _ he =>
  ⟨exec_whenIdle_failed bodyOf_sched rfl he, execSched_acted he⟩

/-- Settles O19: the checks are those of `whenIdle`. -/
theorem cstartChecksAndEffects : Obligations.CstartChecksAndEffects := fun _ he =>
  ⟨exec_whenIdle_failed bodyOf_cstart rfl he, execCstart_acted he⟩

/-- Byte j of the big-endian bytes of words, as a digit to the base 256 of its word (R101). -/
theorem wordsToBytes_toNat {n : Nat} (w : Vector Word n) (j : Nat) (hj : j < 8 * n) :
    ((wordsToBytes w)[j]).toNat = (w[j / 8]'(by omega)).toNat / 256 ^ (7 - j % 8) % 256 := by
  rw [wordsToBytes_getElem, byteOfWord_toNat _ _ (Nat.mod_lt _ (by decide))]

/-- Settles O26: DBUF is WordsToBytes of H. -/
theorem finishChecksAndEffects : Obligations.FinishChecksAndEffects := fun s he =>
  ⟨exec_whenIdle_failed bodyOf_finish rfl he, fun hv hc =>
    ⟨wordsToBytes (n := 8) s.h, execFinish_acted he hv hc, fun j hj => wordsToBytes_toNat (n := 8) s.h j hj⟩⟩

/-! ### Rounds -/

/-- The machine's rounds are the reference's: one more round at the end of either run (R130, R166). -/
theorem runRounds_eq_refRounds (w : Vector Word 80) (n t : Nat) (r : WorkRegs) : runRounds w n t r = refRounds w t n r := by
  induction n with
  | zero => rfl
  | succ n ih => rw [runRounds_add, ih, refRounds, refRounds, List.range_succ, List.foldl_append]; rfl

theorem compressedWork_eq_refRounds (h : Vector Word 8) (w : Vector Word 80) :
    compressedWork h w = refRounds w 0 80 (workOfHash h) := by
  rw [compressedWork, runRounds_eq_refRounds]

/-- Settles O23: the working registers are the reference's, and the feed-forward is the eight sums. -/
theorem compressChecksAndEffects : Obligations.CompressChecksAndEffects := fun s he =>
  ⟨exec_whenIdle_failed bodyOf_compress rfl he, fun hv hc =>
    ⟨compressedWork s.h s.w, compressedWork_eq_refRounds s.h s.w, execCompress_acted he hv hc⟩⟩

theorem roundBody_raised {n : Nat} {s : State}
    (h : s.variant = 0 ∨ s.status.cact = false ∨ n = 0 ∨ 80 < s.tcnt.toNat + n) :
    roundBody n s = .raised .sequenceError := by
  obtain ⟨-, hb⟩ | ⟨hv, hc, hn, hle, -⟩ := roundBody_cases n s
  · exact hb
  · obtain hv' | hc' | hn' | hgt := h
    · exact absurd hv' hv
    · cases hc.symm.trans hc'
    · omega
    · omega

/-- Settles O21: `execRound_acted`, with the rounds of the reference. -/
theorem roundChecksAndEffects : Obligations.RoundChecksAndEffects := by
  intro n s he
  refine ⟨fun h => exec_failed (i := .round n) (e := .sequenceError) rfl he (roundBody_raised (by simpa using h)),
    fun hv hc hn hle => ?_⟩
  rw [execRound_acted he hv hc hn hle, ← runRounds_eq_refRounds]
  rfl

theorem cfinalBody_raised {s : State} (h : s.variant = 0 ∨ s.status.cact = false ∨ s.tcnt ≠ 80) :
    cfinalBody s = .raised .sequenceError := by
  obtain ⟨-, hb⟩ | ⟨hv, hc, ht, -⟩ := cfinalBody_cases s
  · exact hb
  · obtain hv' | hc' | ht' := h
    · exact absurd hv' hv
    · cases hc.symm.trans hc'
    · exact absurd ht ht'

theorem cfinalBody_acted {s : State} (hv : s.variant ≠ 0) (hc : s.status.cact = true) (ht : s.tcnt = 80) :
    cfinalBody s = .acted (finishCompression s) := by
  obtain ⟨hv' | hc' | ht', -⟩ | ⟨-, -, -, hb⟩ := cfinalBody_cases s
  · exact absurd hv' hv
  · cases hc.symm.trans hc'
  · exact absurd ht ht'
  · exact hb

theorem execCfinal_acted {s : State} (he : s.status.errcode = 0) (hv : s.variant ≠ 0) (hc : s.status.cact = true)
    (ht : s.tcnt = 80) : exec .cfinal s = .next (finishCompression (settled s)) :=
  exec_settled rfl (by decide) (fun _ => rfl) he (cfinalBody_acted hv hc ht)

/-- Settles O22: `cfinalBody_raised` and `execCfinal_acted`. -/
theorem cfinalChecksAndEffects : Obligations.CfinalChecksAndEffects := fun _ he =>
  ⟨fun h => exec_failed (e := .sequenceError) rfl he (cfinalBody_raised (by simpa using h)), execCfinal_acted he⟩

end Sys2Proof.Machine

/-! SUPPORT. INIT and illegal words, PAD, LOADBLK and BLOCK (spec 43_commands.md R161 to R163, R169, R176): each one's end state in all
its outcomes, what PAD writes and what LOADBLK reads, byte by byte. -/

namespace Sys2Proof.Machine

/-! ### INIT and illegal words -/

theorem initBody_illegal {v : Nat} (h : v ∉ ([224, 256, 384, 512] : List Nat)) (s : State) :
    initBody v s = .raised .invalidVariant := by
  rw [initBody, variantOf_none.2 h]

theorem initBody_acted (x : Variant) (s : State) : initBody (variantBits x) s = .acted (loadVariant x s) := by
  rw [initBody, variantOf_bits]

theorem execInit_acted (x : Variant) (s : State) :
    exec (.init (variantBits x)) s = .next (loadVariant x (restarted s)) :=
  exec_restarted rfl (fun _ => rfl) (initBody_acted x _)

/-- Settles O14: `initBody_illegal` and `execInit_acted`, with the frame of a command not started early. -/
theorem initChecksAndEffects : Obligations.InitChecksAndEffects := by
  intro s hbegun
  refine ⟨fun v hv => exec_restartFailed (e := .invalidVariant) rfl hbegun (initBody_illegal hv _), fun x => ?_⟩
  rw [execInit_acted, restarted_eq hbegun, hbegun]
  rfl

theorem pendingBody_illegal {w : Word} (h : legalWord w = false) : pendingBody w = fun _ => .raised .illegalCommand := by
  unfold pendingBody
  cases hd : decode w with
  | ok i => exact absurd hd (decode_ne_ok h i)
  | error e => rfl

theorem restarts_eq_false {opc : Byte} (h1 : opc ≠ 0x01) (hB : opc ≠ 0x0B) : restarts opc = false :=
  Bool.eq_false_iff.2 fun h => ((restarts_iff opc).1 h).elim h1 hB

/-- Settles O5: an illegal word always fails in the frame of R160, unless the gate ignores it. -/
theorem illegalWordRaisesIllegalCommand : Obligations.IllegalWordRaisesIllegalCommand := by
  intro s hbegun hw
  rw [performPending_eq, pendingBody_illegal hw]
  refine ⟨fun ⟨h1, hB, he⟩ => perform_failed (e := .illegalCommand) (restarts_eq_false h1 hB) he rfl,
    fun ⟨h1, hB, he⟩ => ?_, fun h => perform_restartFailed (e := .illegalCommand) ((restarts_iff _).2 h) hbegun rfl⟩
  have hclosed : gateClosed (opcOf s.pend) s = true := by simpa [gateClosed, restarts_eq_false h1 hB] using he
  rw [perform_ignored hclosed, endCommand, ← hbegun]

/-! ### PAD -/

theorem padBody_noVariant {s : State} (hv : s.variant = 0) : padBody s = .raised .sequenceError := if_pos hv

theorem padBody_tooLong {s : State} (hv : s.variant ≠ 0) (hlong : s.capacity.toNat < paddedLength s.mlen.toNat) :
    padBody s = .raised .capacityError := by
  obtain ⟨hv', -⟩ | ⟨-, -, hb⟩ | ⟨-, hfit, -⟩ := padBody_cases s
  · exact absurd hv' hv
  · exact hb
  · omega

theorem padBody_acted {s : State} (hv : s.variant ≠ 0) (hfit : paddedLength s.mlen.toNat ≤ s.capacity.toNat) :
    padBody s = .acted (padMessage s) := by
  obtain ⟨hv', -⟩ | ⟨-, hlong, -⟩ | ⟨-, -, hb⟩ := padBody_cases s
  · exact absurd hv' hv
  · omega
  · exact hb

theorem execPad_acted {s : State} (he : s.status.errcode = 0) (hv : s.variant ≠ 0)
    (hfit : paddedLength s.mlen.toNat ≤ s.capacity.toNat) : exec .pad s = .next (padMessage (settled s)) :=
  exec_settled rfl (by decide) (fun _ => rfl) he (padBody_acted hv hfit)

/-- A byte of MSG after the padding is stored: the byte the padding wrote, or the byte of before. -/
theorem msgByte_padMemory (s : State) (len a : Nat) :
    msgByte { s with msg := padMemory s.msg len } a =
      if a = len then 0x80
      else if len < a ∧ a < paddedLength len - 16 then 0x00
      else if h : paddedLength len - 16 ≤ a ∧ a < paddedLength len then
        (lengthField len)[a - (paddedLength len - 16)]'(by simp; omega)
      else msgByte s a := by
  rw [msgByte_eq, find_padMemory, msgByte_eq s]
  split_ifs <;> rfl

/-- Settles O15: the bytes of MSG are those of `msgByte_padMemory`, in the order of R162's three writes. -/
theorem padChecksAndEffects : Obligations.PadChecksAndEffects := by
  intro s he
  have hge := paddedLength_ge s.mlen.toNat
  refine ⟨fun hv => exec_failed (e := .sequenceError) rfl he (padBody_noVariant (by simpa using hv)),
    fun hv hlong => exec_failed (e := .capacityError) rfl he (padBody_tooLong (by simpa using hv) (by simpa using hlong)),
    fun hv hfit => ⟨padMemory s.msg s.mlen.toNat, execPad_acted he hv hfit, ?_, fun a hlo hhi => ?_, fun k hk => ?_,
      fun a ha => ?_⟩⟩
  · rw [msgByte_padMemory, if_pos rfl]
  · rw [msgByte_padMemory, if_neg (by omega), if_pos ⟨hlo, hhi⟩]
  · rw [msgByte_padMemory, if_neg (by omega), if_neg (by omega), dif_pos (by omega)]
    simp only [Nat.add_sub_cancel_left]
    exact bigEndian_getElem 16 (8 * s.mlen.toNat) k hk
  · rw [msgByte_padMemory, if_neg (by omega), if_neg (by omega), dif_neg (by omega)]

/-- In the canonical form, a MemWrite of the bytes that are already written changes nothing. -/
theorem storeBytes_found {m : Mem} (h : Mem.wf m) {off : Nat} {bytes : List Byte}
    (hf : ∀ (k : Nat) (hk : k < bytes.length), Mem.find m (off + k) = some bytes[k]) : Mem.storeBytes m off bytes = m := by
  induction bytes generalizing off with
  | nil => rfl
  | cons b bytes ih =>
    have hfirst : Mem.store m off b = m := store_found h (hf 0 (by simp))
    rw [Mem.storeBytes, hfirst]
    refine ih fun k hk => ?_
    rw [Nat.add_assoc, Nat.add_comm 1]
    exact hf (k + 1) (by simpa using hk)

/-- Padding a padded message again writes the bytes that are there (R162). -/
theorem padMemory_padMemory {m : Mem} (h : Mem.wf m) (len : Nat) :
    padMemory (padMemory m len) len = padMemory m len := by
  rw [padMemory_eq_storeBytes _ len]
  refine storeBytes_found (padMemory_wf h len) fun k hk => ?_
  rw [padMemory_eq_storeBytes, find_storeBytes, dif_pos ⟨by omega, by omega⟩]
  simp

/-- Settles O16: the second PAD finds the same MLEN, hence the same registers, and `padMemory_padMemory` is what it leaves in MSG. -/
theorem padTwiceIsPad : Obligations.PadTwiceIsPad := by
  intro s he hv hfit hwf
  refine ⟨_, execPad_acted he hv hfit, (execPad_acted (s := padMessage (settled s)) he hv hfit).trans ?_⟩
  exact congrArg (fun msg => Host.Outcome.next { padMessage (settled s) with msg }) (padMemory_padMemory hwf s.mlen.toNat)

/-! ### LOADBLK and BLOCK -/

theorem loadblkBody_lengthError {s : State} (hv : s.variant ≠ 0)
    (hlen : s.nblk.toNat ≤ s.bidx.toNat ∨ s.plen.toNat % 128 ≠ 0) : loadblkBody s = .raised .lengthError := by
  obtain ⟨hv', -⟩ | ⟨-, -, hb⟩ | ⟨-, hn, hp, -⟩ | ⟨-, hn, hp, -⟩ := loadblkBody_cases s
  · exact absurd hv' hv
  · exact hb
  · omega
  · omega

theorem loadblkBody_acted {s : State} (hv : s.variant ≠ 0) (hn : s.bidx.toNat < s.nblk.toNat)
    (hp : s.plen.toNat % 128 = 0) (hin : 128 * s.bidx.toNat + 128 ≤ s.capacity.toNat) :
    loadblkBody s = .acted (loadBlock s) := by
  obtain ⟨hv', -⟩ | ⟨-, hlen, -⟩ | ⟨-, -, -, hout, -⟩ | ⟨-, -, -, -, hb⟩ := loadblkBody_cases s
  · exact absurd hv' hv
  · omega
  · omega
  · exact hb

theorem blockBody_sequenceError {s : State} (h : s.variant = 0 ∨ s.status.cact = true) :
    blockBody s = .raised .sequenceError := by
  unfold blockBody
  obtain hv | hc := h
  · exact if_pos hv
  · rw [if_pos hc, ite_self]

theorem blockBody_lengthError {s : State} (hv : s.variant ≠ 0) (hc : s.status.cact = false)
    (hlen : s.nblk.toNat ≤ s.bidx.toNat) : blockBody s = .raised .lengthError := by
  obtain ⟨hv' | hc', -⟩ | ⟨-, -, -, hb⟩ | ⟨-, -, hn, -⟩ | ⟨-, -, hn, -⟩ := blockBody_cases s
  · exact absurd hv' hv
  · cases hc.symm.trans hc'
  · exact hb
  · omega
  · omega

theorem blockBody_acted {s : State} (hv : s.variant ≠ 0) (hc : s.status.cact = false)
    (hn : s.bidx.toNat < s.nblk.toNat) (hin : 128 * s.bidx.toNat + 128 ≤ s.capacity.toNat) :
    blockBody s = .acted (processBlock s) := by
  obtain ⟨hv' | hc', -⟩ | ⟨-, -, hlen, -⟩ | ⟨-, -, -, hout, -⟩ | ⟨-, -, -, -, hb⟩ := blockBody_cases s
  · exact absurd hv' hv
  · cases hc.symm.trans hc'
  · omega
  · omega
  · exact hb

/-- The end of a command changes nothing a block is read from. -/
theorem endCommand_loadBlock (s : State) : endCommand (loadBlock s) = loadBlock (endCommand s) :=
  congrArg (fun blk => { endCommand s with blk }) (blockWords_congr (s := endCommand s) (t := s) rfl rfl _)

theorem endCommand_processBlock (s : State) : endCommand (processBlock s) = processBlock (endCommand s) :=
  congrArg (fun u => advanceIndex (compressBlock (expandBlock u))) (endCommand_loadBlock s)

/-- The frame's writes are no part of MSG. -/
theorem blockWords_settled (s : State) (i : Nat) : blockWords (settled s) i = blockWords s i :=
  blockWords_congr (s := s) (t := settled s) rfl rfl i

theorem execLoadblk_acted {s : State} (he : s.status.errcode = 0) (hv : s.variant ≠ 0)
    (hn : s.bidx.toNat < s.nblk.toNat) (hp : s.plen.toNat % 128 = 0)
    (hin : 128 * s.bidx.toNat + 128 ≤ s.capacity.toNat) : exec .loadblk s = .next (loadBlock (settled s)) :=
  exec_settled rfl (by decide) endCommand_loadBlock he (loadblkBody_acted hv hn hp hin)

theorem execBlock_acted {s : State} (he : s.status.errcode = 0) (hv : s.variant ≠ 0) (hc : s.status.cact = false)
    (hn : s.bidx.toNat < s.nblk.toNat) (hin : 128 * s.bidx.toNat + 128 ≤ s.capacity.toNat) :
    exec .block s = .next (processBlock (settled s)) :=
  exec_settled rfl (by decide) endCommand_processBlock he (blockBody_acted hv hc hn hin)

/-- Byte k of word j of a block is byte 8j + k of its 128 bytes, because WordsToBytes undoes BytesToWords (R102, R112). -/
theorem blockWords_byte (s : State) (i : Nat) {j k : Nat} (hj : j < 16) (hk : k < 8) :
    byteOfWord (blockWords s i)[j] k = msgByte s (128 * i + 8 * j + k) := by
  have hbytes : wordsToBytes (blockWords s i) = memRead s (128 * i) 128 := by
    rw [blockWords]
    exact wordsToBytes_bytesToWords (n := 16) _
  have hread := memRead_getElem s (128 * i) 128 (8 * j + k) (by omega)
  simp only [← hbytes] at hread
  rw [← wordsToBytes_getElem_add (blockWords s i) hj hk, Nat.add_assoc]
  exact hread

/-- Settles O17: BLK is block BIDX, whose bytes are those of `blockWords_byte`. -/
theorem loadblkChecksAndEffects : Obligations.LoadblkChecksAndEffects := by
  intro s he
  refine ⟨fun hv => exec_failed (e := .sequenceError) rfl he (if_pos (by simpa using hv)),
    fun hv hlen => exec_failed (e := .lengthError) rfl he (loadblkBody_lengthError (by simpa using hv) (by simpa using hlen)),
    fun hv hn hp hin => ⟨blockWords s s.bidx.toNat, ?_, fun j k hj hk => ?_⟩⟩
  · rw [execLoadblk_acted he hv hn hp hin, loadBlock, blockWords_settled]
    rfl
  · rw [← byteOfWord_toNat _ _ hk, blockWords_byte s _ hj hk]

/-- Settles O24: one block in the machine's functions, and its rounds in the reference's. -/
theorem blockChecksAndEffects : Obligations.BlockChecksAndEffects := by
  intro s he
  refine ⟨fun h => exec_failed (e := .sequenceError) rfl he (blockBody_sequenceError (by simpa using h)),
    fun hv hc hlen => exec_failed (e := .lengthError) rfl he
      (blockBody_lengthError (by simpa using hv) (by simpa using hc) (by simpa using hlen)),
    fun hv hc hn hin => ⟨blockWords s s.bidx.toNat, compressedWork s.h (schedule (blockWords s s.bidx.toNat)), ?_,
      compressedWork_eq_refRounds _ _, ?_⟩⟩
  · rw [blockWords]
  · have hidx : s.bidx + 1 = BitVec.ofNat 64 (s.bidx.toNat + 1) := by simp [BitVec.ofNat_add]
    rw [execBlock_acted he hv hc hn hin, processBlock, loadBlock, blockWords_settled, ← hidx]
    rfl

end Sys2Proof.Machine

/-! SUPPORT. COMPRESS, BLOCK and ROUND in parts (spec 43_commands.md R172, R173): the frames between the parts undo nothing, so that
the effects compose. -/

namespace Sys2Proof.Machine

/-! ### ROUND and COMPRESS in parts -/

theorem execRound_settled {n : Nat} {s : State} (he : s.status.errcode = 0) (hv : s.variant ≠ 0)
    (hc : s.status.cact = true) (hn : 1 ≤ n) (hle : s.tcnt.toNat + n ≤ 80) :
    exec (.round n) s = .next (advanceRounds n (settled s)) :=
  execRound_acted he hv hc hn hle

theorem advanceRounds_tcnt_toNat {n : Nat} {s : State} (hle : s.tcnt.toNat + n ≤ 80) :
    (advanceRounds n s).tcnt.toNat = s.tcnt.toNat + n :=
  Nat.mod_eq_of_lt (by omega)

/-- Two runs of rounds are one, TCNT included (R172). -/
theorem advanceRounds_advanceRounds {a : Nat} (b : Nat) {s : State} (hle : s.tcnt.toNat + a ≤ 80) :
    advanceRounds b (advanceRounds a s) = advanceRounds (a + b) s := by
  rw [advanceRounds, advanceRounds_tcnt_toNat hle, advanceRounds_w, advanceRounds_wr, ← runRounds_add, Nat.add_assoc]
  rfl

/-- A compression of `n` rounds in parts; 80 of them are COMPRESS's (R172). -/
theorem finishCompression_advanceRounds (n : Nat) {s : State} (hc : s.status.cact = false) :
    finishCompression (advanceRounds n (startCompression s)) =
      { s with
        wr := runRounds s.w n 0 (workOfHash s.h)
        tcnt := BitVec.ofNat 64 n
        h := feedForward s.h (runRounds s.w n 0 (workOfHash s.h)) } := by
  have hstatus : { s.status with cact := false } = s.status := by rw [← hc]
  have htcnt : (startCompression s).tcnt.toNat + n = n := Nat.zero_add n
  rw [finishCompression, advanceRounds, htcnt]
  exact congrArg
    (fun status =>
      { s with
        wr := runRounds s.w n 0 (workOfHash s.h), tcnt := BitVec.ofNat 64 n
        h := feedForward s.h (runRounds s.w n 0 (workOfHash s.h)), status })
    hstatus

theorem compressBlock_eq_rounds {s : State} (hc : s.status.cact = false) :
    finishCompression (advanceRounds 80 (startCompression s)) = compressBlock s := by
  rw [finishCompression_advanceRounds 80 hc, compressBlock, compressHash, compressedWork]
  rfl

/-- Settles O30, by `advanceRounds_advanceRounds` and `compressBlock_eq_rounds`: no frame between the parts undoes anything. -/
theorem roundsAndCompressSplit : Obligations.RoundsAndCompressSplit := by
  refine ⟨fun a b s he hv hc ha hb hle => ?_, fun s he hv hc => ?_⟩
  · have hfit : s.tcnt.toNat + a ≤ 80 := by omega
    have htcnt : (advanceRounds a (settled s)).tcnt.toNat = s.tcnt.toNat + a :=
      advanceRounds_tcnt_toNat (s := settled s) hfit
    refine ⟨_, execList_cons (execRound_settled he hv hc ha hfit)
      (execList_cons (execRound_settled he hv hc hb (by omega)) rfl), ?_⟩
    rw [execRound_settled he hv hc (by omega) (by omega), ← advanceRounds_advanceRounds (s := settled s) b hfit]
    rfl
  · obtain ⟨n, hn⟩ : ∃ n, n = 80 := ⟨_, rfl⟩
    rw [execCompress_acted he hv hc, ← compressBlock_eq_rounds (s := settled s) hc, ← hn]
    have hstart := execCstart_acted he hv hc
    have hround := execRound_settled (n := n) (s := startCompression (settled s)) he hv rfl (by omega)
      ((Nat.zero_add n).le.trans hn.le)
    have htcnt : (advanceRounds n (startCompression (settled s))).tcnt = 80 := by rw [hn]; rfl
    have hfinal := execCfinal_acted (s := advanceRounds n (startCompression (settled s))) he hv rfl htcnt
    exact ⟨_, execList_cons hstart (execList_cons hround (execList_cons hfinal rfl)), rfl⟩

/-! ### BLOCK in parts -/

theorem blockInside_of_inv {s : State} (hs : s.Inv) (hn : s.bidx.toNat < s.nblk.toNat) :
    s.plen.toNat % 128 = 0 ∧ 128 * s.bidx.toNat + 128 ≤ s.capacity.toNat := by
  have hplen := hs.plen_eq
  have hfits := hs.plen_fits
  omega

/-- Settles O31: BLOCK's effects are the three commands' and the advance of BIDX, which the host's write is. -/
theorem blockSplits : Obligations.BlockSplits := by
  intro s hs he hv hc hn
  obtain ⟨hp, hin⟩ := blockInside_of_inv hs hn
  have hload := execLoadblk_acted he hv hn hp hin
  have hsched := execSched_acted (s := loadBlock (settled s)) he hv hc
  have hcompress := execCompress_acted (s := expandBlock (settled (loadBlock (settled s)))) he hv hc
  refine ⟨_, execList_cons hload (execList_cons hsched (execList_cons hcompress rfl)), ?_⟩
  rw [execBlock_acted he hv hc hn hin]
  rfl

end Sys2Proof.Machine

/-! SUPPORT. DIGEST (spec 43_commands.md R171, R174, R175): its parts, its end state as the source's Digest of the message, and what
the host reads of it. -/

namespace Sys2Proof.Machine

/-! ### DIGEST's outcomes -/

theorem digestBody_illegal {v : Nat} (h : v ∉ ([224, 256, 384, 512] : List Nat)) (s : State) :
    digestBody v s = .raised .invalidVariant := by
  rw [digestBody, variantOf_none.2 h]

theorem digestBody_tooLong (x : Variant) {s : State} (hlong : s.capacity.toNat < paddedLength s.mlen.toNat) :
    digestBody (variantBits x) s = .raised .capacityError := by
  rw [digestBody, variantOf_bits]
  exact if_pos (decide_eq_false (by omega))

theorem digestBody_acted (x : Variant) {s : State} (hfit : paddedLength s.mlen.toNat ≤ s.capacity.toNat) :
    digestBody (variantBits x) s = .acted (digestMessage x s) := by
  rw [digestBody, variantOf_bits]
  exact if_neg (by simpa [messageFits] using hfit)

theorem endCommand_processBlocks (n : Nat) (s : State) : endCommand (processBlocks n s) = processBlocks n (endCommand s) := by
  induction n generalizing s with
  | zero => rfl
  | succ n ih => rw [processBlocks, ih, endCommand_processBlock, processBlocks]

theorem endCommand_digestMessage (x : Variant) (s : State) :
    endCommand (digestMessage x s) = digestMessage x (endCommand s) := by
  rw [digestMessage_eq, digestMessage_eq]
  exact congrArg writeDigest (endCommand_processBlocks _ _)

theorem execDigest_restarted (x : Variant) {s : State} (hfit : paddedLength s.mlen.toNat ≤ s.capacity.toNat) :
    exec (.digest (variantBits x)) s = .next (digestMessage x (restarted s)) :=
  exec_restarted rfl (endCommand_digestMessage x) (digestBody_acted x (by simpa using hfit))

theorem execDigest_tooLong (x : Variant) {s : State} (hlong : s.capacity.toNat < paddedLength s.mlen.toNat) :
    exec (.digest (variantBits x)) s = .next (endCommand (raiseError .capacityError (openFrame 0x0B s))) :=
  exec_raised (i := .digest (variantBits x)) (.inr rfl)
    (digestBody_tooLong x (s := openFrame 0x0B s) (by simpa using hlong))

/-! ### DIGEST in parts -/

theorem settled_loadVariant (x : Variant) (s : State) : settled (loadVariant x s) = loadVariant x (settled s) := rfl

theorem settled_padMessage (s : State) : settled (padMessage s) = padMessage (settled s) := rfl

theorem settled_processBlock (s : State) : settled (processBlock s) = processBlock (settled s) :=
  congrArg (fun blk => advanceIndex (compressBlock (expandBlock { settled s with blk }))) (blockWords_settled s _).symm

/-- The frame of INIT and DIGEST leaves nothing for the next command's frame to write. -/
theorem settled_restarted (s : State) : settled (restarted s) = restarted s := by
  rw [restarted, openFrame_restart (opc := 0x0B) rfl]
  rfl

/-- BLOCK after BLOCK is `processBlocks`, in a state that a command has left (R174). -/
theorem execList_blocks (rest : List Instr) {n : Nat} {s : State} (hset : settled s = s) (he : s.status.errcode = 0)
    (hv : s.variant ≠ 0) (hc : s.status.cact = false) (hn : s.bidx.toNat + n ≤ s.nblk.toNat)
    (hin : 128 * s.nblk.toNat ≤ s.capacity.toNat) :
    execList (List.replicate n .block ++ rest) s = execList rest (processBlocks n s) := by
  induction n generalizing s with
  | zero => rfl
  | succ n ih =>
    have hblock : exec .block s = .next (processBlock s) := by
      rw [execBlock_acted he hv hc (by omega) (by omega), hset]
    have hidx : (processBlock s).bidx.toNat = s.bidx.toNat + 1 := by
      have hnblk := s.nblk.isLt
      rw [processBlock_bidx, BitVec.toNat_add]
      exact Nat.mod_eq_of_lt (by simp; omega)
    have hset' : settled (processBlock s) = processBlock s := by rw [settled_processBlock, hset]
    rw [List.replicate_succ, List.cons_append, execList, hblock]
    exact ih hset' he hv hc (by rw [hidx, processBlock_nblk]; omega) hin

/-- The number of blocks that PAD counts, where the padded message fits MSG. -/
theorem padMessage_nblk_toNat {s : State} (hfit : paddedLength s.mlen.toNat ≤ s.capacity.toNat) :
    (padMessage s).nblk.toNat = paddedLength s.mlen.toNat / 128 :=
  Nat.mod_eq_of_lt (by have := s.capacity.isLt; omega)

/-- INIT v; PAD; BLOCK for every block; FINISH leave the state of DIGEST v (R174). -/
theorem execList_digestParts (x : Variant) {s : State} (hfit : paddedLength s.mlen.toNat ≤ s.capacity.toNat) :
    execList (.init (variantBits x) :: .pad ::
      (List.replicate (paddedLength s.mlen.toNat / 128) .block ++ [.finish])) s =
        .next (digestMessage x (restarted s)) := by
  have hset : settled (loadVariant x (restarted s)) = loadVariant x (restarted s) := by
    rw [settled_loadVariant, settled_restarted]
  have he : (loadVariant x (restarted s)).status.errcode = 0 := restarted_errcode s
  have hv : (loadVariant x (restarted s)).variant ≠ 0 := variantWord_ne_zero x
  have hfit' : paddedLength (loadVariant x (restarted s)).mlen.toNat ≤ (loadVariant x (restarted s)).capacity.toNat := by
    simpa using hfit
  have hpad : exec .pad (loadVariant x (restarted s)) = .next (padMessage (loadVariant x (restarted s))) := by
    rw [execPad_acted he hv hfit', hset]
  have hnblk : (padMessage (loadVariant x (restarted s))).nblk.toNat = paddedLength s.mlen.toNat / 128 := by
    rw [padMessage_nblk_toNat hfit', loadVariant_mlen, restarted_mlen]
  have hset' : settled (padMessage (loadVariant x (restarted s))) = padMessage (loadVariant x (restarted s)) := by
    rw [settled_padMessage, hset]
  refine execList_cons (execInit_acted x s) (execList_cons hpad ?_)
  rw [execList_blocks [.finish] hset' he hv rfl
    (by rw [hnblk]; exact (Nat.zero_add _).le)
    (by rw [hnblk, paddedLength_div]; simpa using hfit)]
  refine execList_cons (execFinish_acted ?_ ?_ ?_) ?_
  · rw [processBlocks_status]; exact he
  · rw [processBlocks_frame]; exact hv
  · rw [processBlocks_status]; rfl
  · rw [digestMessage_eq, hnblk]
    exact congrArg (fun u => Host.Outcome.next (writeDigest u)) (endCommand_processBlocks _ _)

/-- Settles O32: where the message fits, `execList_digestParts`; else DIGEST stops before its effects, and PAD after INIT's. -/
theorem digestSplits : Obligations.DigestSplits := by
  refine fun x s => ⟨fun hfit => ⟨_, execDigest_restarted x hfit, execList_digestParts x hfit⟩, fun hlong => ?_⟩
  have hpad : exec .pad (loadVariant x (restarted s)) = .next ((loadVariant x (restarted s)).failed 4) :=
    exec_failed (e := .capacityError) rfl (restarted_errcode s)
      (padBody_tooLong (by simpa using variantWord_ne_zero x) (by simpa using hlong))
  exact ⟨⟨_, execDigest_tooLong x hlong, by simp, by simp, rfl⟩,
    ⟨_, execList_cons (execInit_acted x s) (execList_cons hpad rfl), variantWord_toNat x, rfl, rfl⟩⟩

/-! ### The end state of DIGEST -/

/-- Everything DIGEST leaves unchanged, and what it writes other than H, DBUF and the registers of the last block, in one record
(R171). -/
theorem digestMessage_frame (x : Variant) (s : State) :
    digestMessage x s =
      { s with
        variant := BitVec.ofNat 64 (variantBits x)
        outlen := BitVec.ofNat 64 (variantBytes x)
        plen := BitVec.ofNat 64 (paddedLength s.mlen.toNat)
        nblk := BitVec.ofNat 64 (paddedLength s.mlen.toNat / 128)
        msg := padMemory s.msg s.mlen.toNat
        status := { s.status with cact := false, done := true }
        h := (digestMessage x s).h
        wr := (digestMessage x s).wr
        blk := (digestMessage x s).blk
        w := (digestMessage x s).w
        bidx := (digestMessage x s).bidx
        tcnt := (digestMessage x s).tcnt
        dbuf := (digestMessage x s).dbuf } := by
  conv_lhs => rw [digestMessage_eq, processBlocks_frame]
  rfl

@[simp] theorem digestMessage_variant (x : Variant) (s : State) :
    (digestMessage x s).variant = BitVec.ofNat 64 (variantBits x) := by
  rw [digestMessage_frame]
@[simp] theorem digestMessage_outlen (x : Variant) (s : State) :
    (digestMessage x s).outlen = BitVec.ofNat 64 (variantBytes x) := by
  rw [digestMessage_frame]
@[simp] theorem digestMessage_plen (x : Variant) (s : State) :
    (digestMessage x s).plen = BitVec.ofNat 64 (paddedLength s.mlen.toNat) := by
  rw [digestMessage_frame]
@[simp] theorem digestMessage_nblk (x : Variant) (s : State) :
    (digestMessage x s).nblk = BitVec.ofNat 64 (paddedLength s.mlen.toNat / 128) := by
  rw [digestMessage_frame]
@[simp] theorem digestMessage_status (x : Variant) (s : State) :
    (digestMessage x s).status = { s.status with cact := false, done := true } := by
  rw [digestMessage_frame]
@[simp] theorem digestMessage_mlen (x : Variant) (s : State) : (digestMessage x s).mlen = s.mlen := by
  rw [digestMessage_frame]
@[simp] theorem digestMessage_capacity (x : Variant) (s : State) : (digestMessage x s).capacity = s.capacity := by
  rw [digestMessage_frame]
@[simp] theorem digestMessage_pend (x : Variant) (s : State) : (digestMessage x s).pend = s.pend := by
  rw [digestMessage_frame]
@[simp] theorem digestMessage_epoch (x : Variant) (s : State) : (digestMessage x s).epoch = s.epoch := by
  rw [digestMessage_frame]
@[simp] theorem digestMessage_draws (x : Variant) (s : State) : (digestMessage x s).draws = s.draws := by
  rw [digestMessage_frame]
@[simp] theorem digestMessage_begun (x : Variant) (s : State) : (digestMessage x s).begun = s.begun := by
  rw [digestMessage_frame]
@[simp] theorem digestMessage_turns (x : Variant) (s : State) : (digestMessage x s).turns = s.turns := by
  rw [digestMessage_frame]
@[simp] theorem digestMessage_reply (x : Variant) (s : State) : (digestMessage x s).reply = s.reply := by
  rw [digestMessage_frame]

/-- The block that comes after `n` others, in a MSG that starts with `p` (R111, R112). -/
theorem blockWords_after_blocks {s : State} {p : List Byte} (hb : s.bidx = 0) {n : Nat} (hn : n < 2 ^ 64)
    (h : ∀ j, j < 128 → msgByte s (128 * n + j) = p.getD (128 * n + j) 0) :
    blockWords (processBlocks n s) (processBlocks n s).bidx.toNat = refBlock p n := by
  have hidx : (processBlocks n s).bidx.toNat = n := by
    simpa [processBlocks_bidx, hb] using hn
  rw [hidx, blockWords_congr (processBlocks_msg n s) (processBlocks_epoch n s), blockWords_eq_refBlock h]

section
variable (x : Variant) {s : State} (hfit : paddedLength s.mlen.toNat ≤ s.capacity.toNat)
include hfit

theorem digestMessage_plen_toNat : (digestMessage x s).plen.toNat = paddedLength s.mlen.toNat := by
  have hcap := s.capacity.isLt
  rw [digestMessage_plen]
  exact Nat.mod_eq_of_lt (by omega)

theorem digestMessage_nblk_toNat : (digestMessage x s).nblk.toNat = paddedLength s.mlen.toNat / 128 := by
  have hcap := s.capacity.isLt
  rw [digestMessage_nblk]
  exact Nat.mod_eq_of_lt (by omega)

/-- DIGEST as `n` blocks and a last one, whose input is the chain of the source over the blocks before it (R134, R171). -/
theorem digestMessage_succ {n : Nat} (hn : paddedLength s.mlen.toNat / 128 = n + 1) :
    ∃ u, digestMessage x s = writeDigest (processBlock u) ∧ u.bidx = BitVec.ofNat 64 n ∧
      u.h = refChain (refPad (messageBytes s)) (initialHash x) n ∧
      blockWords u u.bidx.toNat = refBlock (refPad (messageBytes s)) n := by
  have hcap := s.capacity.isLt
  have hdiv := paddedLength_div s.mlen.toNat
  have hnblk : (padMessage (loadVariant x s)).nblk.toNat = n + 1 := by
    rw [padMessage_nblk_toNat (by simpa using hfit), loadVariant_mlen, hn]
  have hmsg (a : Nat) (ha : a < 128 * (n + 1)) :
      msgByte (padMessage (loadVariant x s)) a = (refPad (messageBytes s)).getD a 0 :=
    msgByte_padMessage (loadVariant x s) (by rw [loadVariant_mlen]; omega)
  refine ⟨processBlocks n (padMessage (loadVariant x s)), by rw [digestMessage_eq, hnblk, processBlocks_succ], ?_,
    processBlocks_h rfl (by omega) fun a ha => hmsg a (by omega),
    blockWords_after_blocks rfl (by omega) fun j hj => hmsg _ (by omega)⟩
  exact (processBlocks_bidx n _).trans (BitVec.zero_add _)

/-- What the last block of DIGEST leaves: BIDX past it, BLK holding it, W its schedule, and WR the registers after round 79 of its
compression (R171). -/
theorem digestMessage_lastBlock :
    (digestMessage x s).bidx = (digestMessage x s).nblk ∧ (digestMessage x s).tcnt = 80 ∧
      (digestMessage x s).blk = refBlock (refPad (messageBytes s)) ((digestMessage x s).nblk.toNat - 1) ∧
      (digestMessage x s).w = schedule (digestMessage x s).blk ∧
      (digestMessage x s).wr = refRounds (digestMessage x s).w 0 80
        (workOfHash (refChain (refPad (messageBytes s)) (initialHash x) ((digestMessage x s).nblk.toNat - 1))) := by
  have hge := paddedLength_ge s.mlen.toNat
  have hmod := paddedLength_mod s.mlen.toNat
  obtain ⟨n, hn⟩ : ∃ n, paddedLength s.mlen.toNat / 128 = n + 1 := ⟨paddedLength s.mlen.toNat / 128 - 1, by omega⟩
  obtain ⟨u, hu, hbidx, hh, hblock⟩ := digestMessage_succ x hfit hn
  have hsucc : u.bidx + 1 = BitVec.ofNat 64 (n + 1) := by rw [hbidx, BitVec.ofNat_add]; rfl
  rw [digestMessage_nblk_toNat x hfit, digestMessage_nblk, hn, Nat.add_sub_cancel, ← hblock, ← hh,
    ← compressedWork_eq_refRounds, ← hsucc, hu]
  exact ⟨rfl, rfl, rfl, rfl, rfl⟩

end

/-- MSG[0..PLEN) holds the padded message, and the rest of MSG is as before (R171). -/
theorem msgByte_digestMessage (x : Variant) (s : State) (a : Nat) :
    msgByte (digestMessage x s) a =
      if a < paddedLength s.mlen.toNat then (refPad (messageBytes s)).getD a 0 else msgByte s a := by
  have hpad : msgByte (digestMessage x s) a = msgByte (padMessage s) a := by
    rw [digestMessage_frame]
    exact msgByte_congr rfl rfl
  rw [hpad]
  split
  case isTrue ha => exact msgByte_padMessage s ha
  case isFalse ha =>
    have hlen := paddingBytes_length s.mlen.toNat
    rw [msgByte_eq, padMessage_msg, padMemory_eq_storeBytes, find_storeBytes_outside (.inr (by omega)), padMessage_epoch,
      ← msgByte_eq]

/-- The message itself is the first part of the padded message (R106). -/
theorem refPad_messageBytes_getD (s : State) {a : Nat} (ha : a < s.mlen.toNat) :
    (refPad (messageBytes s)).getD a 0 = msgByte s a := by
  rw [refPad_eq_append, List.getD_append _ _ _ _ (by simpa using ha)]
  simp [messageBytes, ha]

theorem messageBytes_restarted (s : State) : messageBytes (restarted s) = messageBytes s :=
  messageBytes_congr (by simp) fun _ _ => msgByte_congr (by simp) (by simp)

theorem msgByte_restarted (s : State) (a : Nat) : msgByte (restarted s) a = msgByte s a :=
  msgByte_congr (by simp) (by simp)

theorem outlenWord_toNat_eq (x : Variant) : (BitVec.ofNat 64 (variantBytes x)).toNat = variantBytes x := by
  cases x <;> rfl

/-- Settles O27: the registers are those of `digestMessage_frame` and `digestMessage_lastBlock`, and MSG is
`msgByte_digestMessage`. -/
theorem digestChecksAndEffects : Obligations.DigestChecksAndEffects := by
  intro s hbegun
  refine ⟨fun v hv => exec_restartFailed (e := .invalidVariant) rfl hbegun (digestBody_illegal hv _),
    fun x => ⟨fun hlong => exec_restartFailed (e := .capacityError) rfl hbegun
      (digestBody_tooLong x (by simpa using hlong)), fun hfit => ⟨_, execDigest_restarted x hfit, ?_⟩⟩⟩
  have hfit' : paddedLength (restarted s).mlen.toNat ≤ (restarted s).capacity.toNat := by simpa using hfit
  have hplen := digestMessage_plen_toNat x hfit'
  have hnblk := digestMessage_nblk_toNat x hfit'
  have hh := digestMessage_h x hfit'
  obtain ⟨hbidx, htcnt, hblk, hw, hwr⟩ := digestMessage_lastBlock x hfit'
  obtain ⟨hdbuf, -, -⟩ := digestMessage_window x (restarted s)
  have hframe := restarted_eq hbegun
  rw [restarted_mlen] at hplen hnblk
  rw [messageBytes_restarted] at hh hblk hwr
  refine ⟨(congrArg _ (digestMessage_variant x _)).trans (variantWord_toNat x), ?_, hplen, hnblk, hbidx, htcnt, hh, hblk, hw,
    hwr, hdbuf, ?_, fun a ha => ?_, fun a ha => ?_, ?_⟩
  · rw [digestMessage_outlen, outlenWord_toNat_eq]
    rfl
  · rw [digestMessage_status, hframe]
  · rw [msgByte_digestMessage, restarted_mlen, messageBytes_restarted, msgByte_restarted]
    obtain hin | hout := ha
    · have hge := paddedLength_ge s.mlen.toNat
      rw [if_pos (by omega), refPad_messageBytes_getD s hin]
    · rw [if_neg (by omega)]
  · rw [msgByte_digestMessage, restarted_mlen, if_pos ha, messageBytes_restarted]
  · simp [hframe]

/-! ### Reading the digest back -/

/-- Byte j of Digest(M, v): the first v/8 of the 64 bytes of H (R152). -/
theorem refDigest_getD (m : List Byte) (x : Variant) {j : Nat} (hj : j < 64) :
    (refDigest m x).getD j 0 = if j < variantBytes x then (wordsToBytes (n := 8) (refHash m x))[j] else 0 := by
  rw [refDigest, List.getD_eq_getElem?_getD, List.getElem?_take]
  split <;> simp [hj]

/-- Settles O28: the host's read of the DOUT window (`doutWindowMasksDigest`) of what DIGEST shows (`execDigest_shows`). -/
theorem digestReadsBack : Obligations.DigestReadsBack := by
  intro x s t ht he j hj
  obtain ⟨-, hdbuf, houtlen, hdone⟩ := execDigest_shows ht he
  have hbusy : t.status.busy = false := by
    obtain ⟨-, rfl⟩ := execDigest_acted ht he
    rfl
  have hread : t.status.done = true ∧ j < t.outlen.toNat ↔ j < variantBytes x := by
    rw [houtlen, outlenWord_toNat_eq]
    exact and_iff_right hdone
  rw [(doutWindowMasksDigest t j hj hbusy).1, refDigest_getD _ _ hj]
  simp only [hread, hdbuf]
  split <;> rfl

end Sys2Proof.Machine

/-! SUPPORT. The errors of a command (spec 60_exceptions.md R200 to R211): what clears one, how the engine's
move ends, what a failing command leaves unchanged, the cause of each error, and what a host access made meanwhile does not
change. -/

namespace Sys2Proof.Machine

/-! ### What latches and what clears an error -/

/-- The effects of a command do not touch ERRCODE (R200). -/
theorem Acts.errcode {i : Instr} {s u : State} (h : Acts i s u) : u.status.errcode = s.status.errcode := by
  cases i with
  | init v => obtain ⟨x, -, rfl⟩ := h; rfl
  | digest v => obtain ⟨x, -, -, rfl⟩ := h; rw [digestMessage_status]
  | pad => obtain ⟨-, -, rfl⟩ := h; rfl
  | round n => obtain ⟨-, -, rfl⟩ := h; rfl
  | _ => obtain ⟨-, rfl⟩ := h; rfl

/-- With an error latched, only the opcodes of INIT and DIGEST pass the gate (R205). -/
theorem gateClosed_of_latched {opc : Byte} {s : State} (he : s.status.errcode ≠ 0) :
    gateClosed opc s = !restarts opc := by
  rw [gateClosed, bne_iff_ne.2 he, Bool.true_and]

theorem clearsErrors_iff (i : Instr) : clearsErrors i = true ↔ ∃ v, i = .init v ∨ i = .digest v := by
  cases i <;> simp [clearsErrors]

/-- The engine clears a latched error only where PEND is a legal INIT or DIGEST (R208). -/
theorem performPending_clears {s t : State} (h : performPending s = .next t) (he : s.status.errcode ≠ 0)
    (ht : t.status.errcode = 0) : ∃ v, decode s.pend = .ok (.init v) ∨ decode s.pend = .ok (.digest v) := by
  obtain rfl | ⟨hg, i, u, hd, -, -⟩ | ⟨e, rfl⟩ := performPending_cases h
  · exact absurd ht he
  · have hr : clearsErrors i = true := by
      rw [gateClosed_of_latched he, ← opcodeOf_decode hd, restarts_opcodeOf] at hg
      simpa using hg
    obtain ⟨v, rfl | rfl⟩ := (clearsErrors_iff i).1 hr
    · exact ⟨v, .inl hd⟩
    · exact ⟨v, .inr hd⟩
  · exact absurd ht (errorCode_ne_zero e)

theorem storeAt_errcode (loc : Location) (v : Word) (s : State) : (storeAt loc v s).status.errcode = s.status.errcode := by
  cases loc with
  | reg r => cases r <;> rfl
  | dout j => rfl
  | msg j => rfl

/-- No host access changes ERRCODE (R208). -/
theorem hostAccess_errcode (a : Access) (s : State) : (hostAccess a s).status.errcode = s.status.errcode := by
  cases a with
  | read width offset =>
    obtain ⟨r, d, h⟩ := hostRead_registers width offset s
    rw [hostAccess, h]
  | write width offset v =>
    obtain ⟨-, h⟩ | ⟨loc, -, -, h⟩ | ⟨loc, -, -, h⟩ := hostWrite_cases width offset v s
    · rw [hostAccess, h]
    · rw [hostAccess, h, dropWrite_eq]
    · rw [hostAccess, h]
      exact storeAt_errcode loc v s

theorem startPending_errcode (s : State) : (startPending s).status.errcode = s.status.errcode := by
  obtain h | h := startPending_eq s <;> rw [h]

/-- Settles O37: of the moves of `step_moves` only a reset and the engine's INIT or DIGEST (`performPending_clears`) clear
ERRCODE. -/
theorem onlyRestartOrResetClearsError : Obligations.OnlyRestartOrResetClearsError := by
  intro s t h he ht
  obtain ⟨u, rfl, ⟨hturn, hbusy, hp⟩ | rfl | rfl | ⟨a, -, rfl⟩ | ⟨hreset, -⟩⟩ := step_moves h
  · exact .inr ⟨hturn, hbusy, performPending_clears (s := { s with turns := s.turns.tail }) hp he ht⟩
  · exact absurd ht he
  · exact absurd ((startPending_errcode _).symm.trans ht) he
  · exact absurd ((hostAccess_errcode a _).symm.trans ht) he
  · exact .inl hreset

/-- A word whose OPC is neither INIT's nor DIGEST's does not pass the gate with an error latched (R205). -/
theorem perform_latched {opc : Byte} {body : State → Verdict} {s : State} (he : s.status.errcode ≠ 0)
    (hr : restarts opc = false) : perform opc body s = .next (endCommand s) :=
  perform_ignored ((gateClosed_of_latched he).trans (by rw [hr]; rfl))

/-- Settles O36: the gate reads only OPC, so that legal and illegal words are the one case of `perform_latched`. -/
theorem errorGateIgnores : Obligations.ErrorGateIgnores := fun s he =>
  ⟨fun i hi => (exec_eq_body i s).trans (perform_latched he ((restarts_opcodeOf i).trans hi)),
    fun h1 hB => (performPending_eq s).trans (perform_latched he (restarts_eq_false h1 hB))⟩

/-! ### How the engine's move ends -/

theorem performPending_busy {s t : State} (h : performPending s = .next t) : t.status.busy = false := by
  obtain rfl | ⟨-, i, u, -, -, rfl⟩ | ⟨e, rfl⟩ := performPending_cases h <;> rfl

/-- The step in which the engine moves, by its turn or because no move is left (R248; assumption 4). -/
theorem step_engine {s : State} (h : s.turns = [] ∨ s.turns.head? = some .engine) :
    step s = engineTurn { s with turns := s.turns.tail } := by
  have hturns : s.turns = .engine :: s.turns.tail ∨ s.turns = [] ∧ s.turns.tail = [] := by
    obtain h | h := h
    · exact .inr ⟨h, by rw [h]; rfl⟩
    · exact .inl (List.eq_cons_of_mem_head? h)
  rw [step, takeNextTurn, nextTurn_engine hturns]
  rfl

/-- Settles O38: with BUSY = 1 the engine's move is `performPending`, which ends the command; with BUSY = 0 it is the
identity. -/
theorem engineMoveEndsBusyOrIdles : Obligations.EngineMoveEndsBusyOrIdles := by
  intro s t hturn h
  rw [step_engine hturn, engineTurn] at h
  cases hb : s.status.busy with
  | true =>
    rw [if_pos hb] at h
    exact ⟨performPending_busy h, nofun⟩
  | false =>
    rw [if_neg (by simp [hb])] at h
    obtain rfl := Host.Outcome.next.inj h
    exact ⟨hb, fun _ => rfl⟩

/-! ### What a failing command leaves unchanged -/

/-- A command that leaves an error latched was ignored by the gate, or it has raised the error (R205, R206). -/
theorem exec_latched {i : Instr} {s t : State} (h : exec i s = .next t) (he : t.status.errcode ≠ 0) :
    (gateClosed (opcodeOf i) s = true ∧ t = endCommand s) ∨
      ∃ e, t = endCommand (raiseError e (openFrame (opcodeOf i) s)) := by
  rw [exec_eq_body] at h
  obtain hignored | ⟨hg, u, hb, rfl⟩ | ⟨-, e, -, ht⟩ := perform_cases h
  · exact .inl hignored
  · exact absurd ((acts_of_bodyOf hb).errcode.trans (openFrame_errcode hg)) he
  · exact .inr ⟨e, ht⟩

/-- Settles O35: neither outcome of `exec_latched` has written more than the frame's own fields. -/
theorem errorsArePrecise : Obligations.ErrorsArePrecise := by
  intro i s t h he
  obtain ⟨hg, rfl⟩ | ⟨e, rfl⟩ := exec_latched h he
  · refine ⟨rfl, fun _ => ⟨rfl, rfl⟩, fun hs => ?_⟩
    cases hg.symm.trans (gateClosed_eq_false (.inl hs))
  · rw [openFrame_eq, restarts_opcodeOf]
    exact ⟨rfl, fun hi => by simp [hi], fun _ => rfl⟩

/-! ### The cause of each error -/

/-- The causes of R201, each where the checks before it passed (R209). -/
def errorCause (s : State) (i : Instr) : ErrorName → Prop
  | .lengthError => ¬ sequenceCause s i ∧
      (i = .block ∧ s.nblk.toNat ≤ s.bidx.toNat ∨
        i = .loadblk ∧ (s.nblk.toNat ≤ s.bidx.toNat ∨ s.plen.toNat % 128 ≠ 0))
  | .invalidVariant => ∃ v, (i = .init v ∨ i = .digest v) ∧ v ∉ ([224, 256, 384, 512] : List Nat)
  | .capacityError => s.capacity.toNat < paddedLength s.mlen.toNat ∧
      (i = .pad ∧ ¬ sequenceCause s i ∨ ∃ v, i = .digest v ∧ v ∈ ([224, 256, 384, 512] : List Nat))
  | .illegalCommand => False
  | .sequenceError => sequenceCause s i

/-- The frame changes nothing that a check reads. -/
theorem errorCause_openFrame (opc : Byte) (s : State) (i : Instr) (e : ErrorName) :
    errorCause (openFrame opc s) i e ↔ errorCause s i e := by
  have hseq : sequenceCause (openFrame opc s) i ↔ sequenceCause s i := by cases i <;> simp [sequenceCause]
  cases e <;> simp [errorCause, hseq]

/-- A command's checks raise an error only for the cause of that error. -/
theorem errorCause_of_raised {i : Instr} {s : State} {e : ErrorName} (h : bodyOf i s = .raised e) : errorCause s i e := by
  cases i with
  | init v =>
    obtain ⟨hv, hb⟩ | ⟨x, -, hb⟩ := initBody_cases v s <;> cases hb.symm.trans h
    exact ⟨v, .inl rfl, hv⟩
  | pad =>
    obtain ⟨hv, hb⟩ | ⟨hv, hlong, hb⟩ | ⟨-, -, hb⟩ := padBody_cases s <;> cases hb.symm.trans h
    · exact hv
    · exact ⟨hlong, .inl ⟨rfl, hv⟩⟩
  | loadblk =>
    obtain ⟨hv, hb⟩ | ⟨hv, hlen, hb⟩ | ⟨-, -, -, -, hb⟩ | ⟨-, -, -, -, hb⟩ := loadblkBody_cases s <;>
      cases hb.symm.trans h
    · exact hv
    · exact ⟨hv, .inr ⟨rfl, hlen⟩⟩
  | sched => obtain ⟨hs, hb⟩ | ⟨-, -, hb⟩ := schedBody_cases s <;> cases hb.symm.trans h; exact hs
  | cstart => obtain ⟨hs, hb⟩ | ⟨-, -, hb⟩ := cstartBody_cases s <;> cases hb.symm.trans h; exact hs
  | round n => obtain ⟨hs, hb⟩ | ⟨-, -, -, -, hb⟩ := roundBody_cases n s <;> cases hb.symm.trans h; exact hs
  | cfinal => obtain ⟨hs, hb⟩ | ⟨-, -, -, hb⟩ := cfinalBody_cases s <;> cases hb.symm.trans h; exact hs
  | compress => obtain ⟨hs, hb⟩ | ⟨-, -, hb⟩ := compressBody_cases s <;> cases hb.symm.trans h; exact hs
  | block =>
    obtain ⟨hs, hb⟩ | ⟨hv, hc, hlen, hb⟩ | ⟨-, -, -, -, hb⟩ | ⟨-, -, -, -, hb⟩ := blockBody_cases s <;>
      cases hb.symm.trans h
    · exact hs
    · exact ⟨not_or.2 ⟨hv, by simp [hc]⟩, .inl ⟨rfl, hlen⟩⟩
  | finish => obtain ⟨hs, hb⟩ | ⟨-, -, hb⟩ := finishBody_cases s <;> cases hb.symm.trans h; exact hs
  | digest v =>
    obtain ⟨hv, hb⟩ | ⟨x, rfl, hlong, hb⟩ | ⟨x, -, -, hb⟩ := digestBody_cases v s <;> cases hb.symm.trans h
    · exact ⟨v, .inr rfl, hv⟩
    · exact ⟨hlong, .inr ⟨_, rfl, variantBits_legal x⟩⟩

/-- The table of R203 is complete: in each of its cases the command raises SequenceError. -/
theorem bodyOf_sequenceError {i : Instr} {s : State} (h : sequenceCause s i) : bodyOf i s = .raised .sequenceError := by
  cases i with
  | init v => exact h.elim
  | pad => exact padBody_noVariant h
  | loadblk => exact if_pos h
  | round n => exact roundBody_raised h
  | cfinal => exact cfinalBody_raised h
  | block => exact blockBody_sequenceError h
  | digest v => exact h.elim
  | _ => exact whenIdle_raised _ h

/-- A command's checks raise each error in every case of its cause. -/
theorem raised_of_errorCause {i : Instr} {s : State} {e : ErrorName} (h : errorCause s i e) : bodyOf i s = .raised e := by
  cases e with
  | lengthError =>
    obtain ⟨hs, ⟨rfl, hlen⟩ | ⟨rfl, hlen⟩⟩ := h
    · obtain ⟨hv, hc⟩ := not_or.1 hs
      exact blockBody_lengthError hv (by simpa using hc) hlen
    · exact loadblkBody_lengthError hs hlen
  | invalidVariant =>
    obtain ⟨v, rfl | rfl, hv⟩ := h
    · exact initBody_illegal hv s
    · exact digestBody_illegal hv s
  | capacityError =>
    obtain ⟨hlong, ⟨rfl, hs⟩ | ⟨v, rfl, hv⟩⟩ := h
    · exact padBody_tooLong hs hlong
    · obtain ⟨x, hx⟩ := Option.ne_none_iff_exists'.1 fun hnone => variantOf_none.1 hnone hv
      obtain rfl := variantOf_some hx
      exact digestBody_tooLong x hlong
  | illegalCommand => exact h.elim
  | sequenceError => exact bodyOf_sequenceError h

/-- A command that passes the gate ends with no error latched, or with the code of the error its checks have raised. -/
theorem exec_errcode {i : Instr} {s t : State} (hg : s.status.errcode = 0 ∨ clearsErrors i = true)
    (h : exec i s = .next t) :
    (∃ u, bodyOf i (openFrame (opcodeOf i) s) = .acted u ∧ t.status.errcode = 0) ∨
      ∃ e, bodyOf i (openFrame (opcodeOf i) s) = .raised e ∧ t.status.errcode = errorCode e := by
  have hopen : gateClosed (opcodeOf i) s = false := gateClosed_eq_false (by rwa [restarts_opcodeOf])
  rw [exec_eq_body] at h
  obtain ⟨hclosed, -⟩ | ⟨-, u, hb, rfl⟩ | ⟨-, e, hb, rfl⟩ := perform_cases h
  · cases hclosed.symm.trans hopen
  · exact .inl ⟨u, hb, (acts_of_bodyOf hb).errcode.trans (openFrame_errcode hopen)⟩
  · exact .inr ⟨e, hb, rfl⟩

theorem errorCode_injective {e e' : ErrorName} (h : errorCode e = errorCode e') : e = e' := by
  revert h
  cases e <;> cases e' <;> decide

/-- A command that passes the gate ends with the code of an error exactly for the cause of that error (R201, R203). -/
theorem exec_errcode_iff {i : Instr} {s t : State} (hg : s.status.errcode = 0 ∨ clearsErrors i = true)
    (h : exec i s = .next t) (e : ErrorName) : t.status.errcode = errorCode e ↔ errorCause s i e := by
  rw [← errorCause_openFrame (opcodeOf i)]
  constructor
  · intro hcode
    obtain ⟨u, -, hzero⟩ | ⟨e', hb, hraised⟩ := exec_errcode hg h
    · exact absurd (hcode.symm.trans hzero) (errorCode_ne_zero e)
    · obtain rfl := errorCode_injective (hcode.symm.trans hraised)
      exact errorCause_of_raised hb
  · intro hcause
    have hb := raised_of_errorCause hcause
    obtain ⟨u, hacted, -⟩ | ⟨e', hb', hraised⟩ := exec_errcode hg h
    · cases hacted.symm.trans hb
    · cases hb'.symm.trans hb
      exact hraised

/-- Settles O33: `exec_errcode_iff` at SequenceError. -/
theorem sequenceErrorExactly : Obligations.SequenceErrorExactly := fun _ _ _ hg h =>
  exec_errcode_iff hg h .sequenceError

/-- Settles O34: `exec_errcode_iff` at the three other errors of a legal command; code 5 is no legal command's (R176). -/
theorem otherErrorsExactly : Obligations.OtherErrorsExactly := by
  intro i s t hg h
  refine ⟨exec_errcode_iff hg h .lengthError, exec_errcode_iff hg h .invalidVariant,
    exec_errcode_iff hg h .capacityError, ?_⟩
  obtain ⟨u, -, hzero⟩ | ⟨e, hb, hcode⟩ := exec_errcode hg h
  · simp [hzero]
  · rw [hcode]
    have hcause := errorCause_of_raised hb
    cases e with
    | illegalCommand => exact hcause.elim
    | _ => decide

/-! ### A host access while a command is pending -/

/-- The state with the overrun bits and the model's draw count and reply given: all that a host access with BUSY = 1 touches
(R241, R67). -/
def markAccess (cmdovr wrovr : Bool) (draws : Nat) (reply : Option Reply) (s : State) : State :=
  { s with status := { s.status with cmdovr, wrovr }, draws, reply }

/-- Everything a host access with BUSY = 1 does to the state (R241, R242). -/
theorem hostAccess_busy {s : State} (hb : s.status.busy = true) (a : Access) :
    ∃ cmdovr wrovr, hostAccess a s = markAccess cmdovr wrovr (hostAccess a s).draws (hostAccess a s).reply s := by
  cases a with
  | read width offset =>
    obtain ⟨r, d, h⟩ := hostRead_registers width offset s
    exact ⟨s.status.cmdovr, s.status.wrovr, by rw [hostAccess, h]; rfl⟩
  | write width offset v =>
    obtain ⟨-, h⟩ | ⟨loc, -, -, h⟩ | ⟨loc, -, hidle, -⟩ := hostWrite_cases width offset v s
    · exact ⟨s.status.cmdovr, s.status.wrovr, by rw [hostAccess, h]; rfl⟩
    · rw [hostAccess, h, dropWrite_eq]
      exact ⟨_, _, rfl⟩
    · cases hb.symm.trans hidle

section
variable (cmdovr wrovr : Bool) (draws : Nat) (reply : Option Reply) (s : State)

theorem loadBlock_markAccess :
    loadBlock (markAccess cmdovr wrovr draws reply s) = markAccess cmdovr wrovr draws reply (loadBlock s) :=
  congrArg (fun blk => markAccess cmdovr wrovr draws reply { s with blk })
    (blockWords_congr (s := s) (t := markAccess cmdovr wrovr draws reply s) rfl rfl _)

theorem processBlock_markAccess :
    processBlock (markAccess cmdovr wrovr draws reply s) = markAccess cmdovr wrovr draws reply (processBlock s) :=
  congrArg (fun u => advanceIndex (compressBlock (expandBlock u))) (loadBlock_markAccess cmdovr wrovr draws reply s)

theorem processBlocks_markAccess (n : Nat) :
    processBlocks n (markAccess cmdovr wrovr draws reply s) = markAccess cmdovr wrovr draws reply (processBlocks n s) := by
  induction n generalizing s with
  | zero => rfl
  | succ n ih => rw [processBlocks, processBlock_markAccess, ih, processBlocks]

theorem digestMessage_markAccess (x : Variant) :
    digestMessage x (markAccess cmdovr wrovr draws reply s) = markAccess cmdovr wrovr draws reply (digestMessage x s) := by
  have hpad : padMessage (loadVariant x (markAccess cmdovr wrovr draws reply s)) =
      markAccess cmdovr wrovr draws reply (padMessage (loadVariant x s)) := rfl
  rw [digestMessage_eq, digestMessage_eq, hpad, processBlocks_markAccess]
  rfl

theorem Verdict.map_ite {p : Prop} [Decidable p] (f : State → State) (a b : Verdict) :
    (if p then a else b).map f = if p then a.map f else b.map f := apply_ite (Verdict.map f) p a b

/-- The checks and effects of a command neither read nor write what a host access touches: pushed inside the checks, the marking
meets effects it commutes with, and conditions that are the same by definition. -/
theorem bodyOf_markAccess (i : Instr) :
    bodyOf i (markAccess cmdovr wrovr draws reply s) = (bodyOf i s).map (markAccess cmdovr wrovr draws reply) := by
  cases i with
  | init v => simp only [bodyOf, initBody]; cases variantOf v <;> rfl
  | pad => simp only [bodyOf, padBody, Verdict.map_ite]; rfl
  | loadblk => simp only [bodyOf, loadblkBody, loadBlock_markAccess, Verdict.map_ite]; rfl
  | sched => simp only [bodyOf_sched, whenIdle, Verdict.map_ite]; rfl
  | cstart => simp only [bodyOf_cstart, whenIdle, Verdict.map_ite]; rfl
  | round n => simp only [bodyOf, roundBody, Verdict.map_ite]; rfl
  | cfinal => simp only [bodyOf, cfinalBody, Verdict.map_ite]; rfl
  | compress => simp only [bodyOf_compress, whenIdle, Verdict.map_ite]; rfl
  | block => simp only [bodyOf, blockBody, processBlock_markAccess, Verdict.map_ite]; rfl
  | finish => simp only [bodyOf_finish, whenIdle, Verdict.map_ite]; rfl
  | digest v =>
    simp only [bodyOf, digestBody, digestMessage_markAccess]
    cases variantOf v with
    | none => rfl
    | some x => simp only [Verdict.map_ite]; rfl

theorem pendingBody_markAccess (word : Word) :
    pendingBody word (markAccess cmdovr wrovr draws reply s) =
      (pendingBody word s).map (markAccess cmdovr wrovr draws reply) := by
  unfold pendingBody
  cases decode word with
  | ok i => exact bodyOf_markAccess cmdovr wrovr draws reply s i
  | error e => rfl

/-- After the frame, too, only the overrun bits and the model's own fields differ (R160). -/
theorem openFrame_markAccess (opc : Byte) :
    ∃ c w, openFrame opc (markAccess cmdovr wrovr draws reply s) = markAccess c w draws reply (openFrame opc s) := by
  rw [openFrame_eq, openFrame_eq]
  exact ⟨_, _, rfl⟩

end

/-- A command that completes does so whatever a host access has touched, and its outcome differs in that only. -/
theorem perform_markAccess {opc : Byte} {body : State → Verdict} {s t : State} {draws : Nat} {reply : Option Reply}
    (hbody : ∀ c w u, body (markAccess c w draws reply u) = (body u).map (markAccess c w draws reply))
    (h : perform opc body s = .next t) (cmdovr wrovr : Bool) :
    ∃ c w, perform opc body (markAccess cmdovr wrovr draws reply s) = .next (markAccess c w draws reply t) := by
  obtain ⟨c, w, hframe⟩ := openFrame_markAccess cmdovr wrovr draws reply s opc
  have hmarked := hbody c w (openFrame opc s)
  rw [← hframe] at hmarked
  have hgate : gateClosed opc (markAccess cmdovr wrovr draws reply s) = gateClosed opc s := rfl
  obtain ⟨hg, rfl⟩ | ⟨hg, u, hb, rfl⟩ | ⟨hg, e, hb, rfl⟩ := perform_cases h <;> rw [← hgate] at hg
  · exact ⟨cmdovr, wrovr, perform_ignored hg⟩
  · rw [hb] at hmarked
    exact ⟨c, w, perform_acted hg hmarked⟩
  · rw [hb] at hmarked
    refine ⟨c, w, (perform_raised hg hmarked).trans ?_⟩
    rw [hframe]
    rfl

/-- Settles O53: `perform_markAccess`, for what `hostAccess_busy` says the access touches. -/
theorem busyAccessLeavesCommandAlone : Obligations.BusyAccessLeavesCommandAlone := by
  intro s t a hb h
  obtain ⟨cmdovr, wrovr, ha⟩ := hostAccess_busy hb a
  rw [performPending_eq] at h
  obtain ⟨c, w, ht⟩ := perform_markAccess (draws := (hostAccess a s).draws) (reply := (hostAccess a s).reply)
    (fun _ _ u => pendingBody_markAccess _ _ _ _ u s.pend) h cmdovr wrovr
  exact ⟨_, (congrArg performPending ha).trans ((performPending_eq _).trans ht), rfl⟩

end Sys2Proof.Machine

/-! SUPPORT. The two hazards of 70_reset_and_hazards.md: a legal write made while BUSY = 1 is dropped (R241), and the reset event may
come at any move (R230). -/

namespace Sys2Proof.Machine

/-! ### A write made while BUSY = 1 (R241) -/

theorem dropWrite_cmd (s : State) :
    dropWrite (.reg .cmd) s = { s with status := { s.status with cmdovr := true } } := rfl

theorem dropWrite_of_ne_cmd {loc : Location} (h : loc ≠ .reg .cmd) (s : State) :
    dropWrite loc s = { s with status := { s.status with wrovr := true } } := by
  simp [dropWrite_eq, h]

/-- The target of a legal write decides only which overrun bit is set. -/
theorem hostWrite_busy {s : State} {width : Width} {offset : Word} {loc : Location} (v : Word) (hb : s.status.busy = true)
    (hl : writeTarget width s.capacity.toNat offset = some loc) :
    hostAccess (.write width offset v) s = { dropWrite loc s with reply := some (.written false) } := by
  simp [hostAccess, hostWrite, hl, hb]

/-- Settles O49: CMD, which lies at offset 0, is the one target whose write sets CMDOVR (`dropWrite_of_ne_cmd`). -/
theorem busyWritesAreDropped : Obligations.BusyWritesAreDropped := by
  intro s offset v hb
  refine ⟨?cmd, fun r hr => ?register, fun hbase hlt => ?message⟩
  case cmd =>
    have hdropped := hostWrite_reg_busy hb .cmd v
    rwa [dropWrite_cmd] at hdropped
  case register =>
    have hne : Location.reg r ≠ .reg .cmd := fun h => hr (Location.reg.inj h)
    rw [hostWrite_reg_busy hb, dropWrite_of_ne_cmd hne]
  case message =>
    have hoffset : offset.toNat = msgBase + (offset.toNat - msgBase) := (Nat.add_sub_cancel' hbase).symm
    have hinside : offset.toNat - msgBase < s.capacity.toNat := Nat.sub_lt_left_of_lt_add hbase hlt
    have hne : Location.msg (offset.toNat - msgBase) ≠ .reg .cmd := nofun
    rw [hostWrite_busy v hb (writeTarget_msg_eq hoffset hinside), dropWrite_of_ne_cmd hne]

/-! ### The reset event (R230) -/

/-- A step takes the first move of the list (R20; assumption 4). -/
theorem step_eq_takeTurn {s : State} {turn : Turn} {rest : List Turn} (h : s.turns = turn :: rest) :
    step s = takeTurn turn { s with turns := rest } := by
  have hnext : nextTurn s = (turn, { s with turns := rest }) := by rw [nextTurn, h]
  rw [step, takeNextTurn, hnext]

/-- With nothing written since the last reset, MSG reads as that reset drew it (R48; assumption 2). -/
theorem msgByte_of_unwritten {s : State} (h : s.msg = []) (a : Nat) : msgByte s a = Config.msgDraw s.epoch a := by
  rw [msgByte_eq, h]
  rfl

/-- Settles O56: the step is the reset event, which asks nothing of BUSY and leaves no byte of MSG written. -/
theorem resetEventRestoresReset : Obligations.ResetEventRestoresReset := fun s rest h =>
  ⟨resetEvent { s with turns := rest }, step_eq_takeTurn h, rfl, msgByte_of_unwritten rfl⟩

end Sys2Proof.Machine
